-- ==== Sys2Proof/Word.lean ====
section
/-! DEFINITION. The words of the block: the byte, the 16-bit command and descriptor word, the pixel. -/

namespace Sys2Proof

/-- A byte, bits 7 (most significant) down to 0 (R10). -/
abbrev Byte := BitVec 8

/-- A 16-bit value: a command word (R59), IMG_W, IMG_H or PW (R20, R21, R27). -/
abbrev Word := BitVec 16

/-- One pixel: three separate 8-bit components (R42). -/
structure Pixel where
  r : Byte
  g : Byte
  b : Byte
  deriving DecidableEq, Repr, Inhabited

end Sys2Proof
end

