-- ==== Sys2Proof/Config.lean ====
section
/-! DEFINITION. What is fixed for the machine: the constants of R7, the parameters of R8 and the free values. -/

namespace Sys2Proof

/-- The three alignments (R22, R62). The value 3 is no alignment, so it is no constructor (log 15). -/
inductive Align where
  | left
  | center
  | right
  deriving DecidableEq, Repr, Inhabited

/-- The parameters R8 leaves open: `P_RASTER_MARKER`, `P_ALIGN_CMD` for the three alignments and `P_SWITCH_INIT`.
Every operation takes them as an argument. -/
structure Params where
  marker      : List Byte
  alignLeft   : List Byte
  alignCenter : List Byte
  alignRight  : List Byte
  switchInit  : Bool
  deriving DecidableEq, Repr, Inhabited

/-- `P_ALIGN_CMD(a)` (R72). -/
def Params.alignCmd (p : Params) : Align → List Byte
  | .left   => p.alignLeft
  | .center => p.alignCenter
  | .right  => p.alignRight

/-- What R72 and R73 require of the open byte strings: none is empty and the three alignment commands are pairwise
different. -/
def Params.wf (p : Params) : Bool :=
  decide (p.marker ≠ []) && decide (p.alignLeft ≠ []) && decide (p.alignCenter ≠ []) && decide (p.alignRight ≠ []) &&
    decide (p.alignLeft ≠ p.alignCenter) && decide (p.alignLeft ≠ p.alignRight) &&
    decide (p.alignCenter ≠ p.alignRight)

/-- The values R8 suggests, with `P_SWITCH_INIT` at its decided value 0. Used by tests, and by `Config.params` only
where the open constant is no legal choice. -/
def Params.suggested : Params where
  marker      := [0x1D, 0x76, 0x30, 0x00]
  alignLeft   := [0x1B, 0x61, 0x00]
  alignCenter := [0x1B, 0x61, 0x01]
  alignRight  := [0x1B, 0x61, 0x02]
  switchInit  := false

namespace Config

/-- `P_PAD_QUANTUM` (R7). -/
def padQuantum : Nat := 32
/-- `P_H_MAX` (R7). -/
def hMax : Nat := 255
/-- `P_W_ADVISE` (R7). -/
def wAdvise : Nat := 512
/-- `P_LUM_MAX` (R7). -/
def lumMax : Nat := 765
/-- `P_T1` (R7). -/
def t1 : Nat := 255
/-- `P_T2` (R7). -/
def t2 : Nat := 510
/-- `P_GROUP` (R7). -/
def group : Nat := 4
/-- `P_HDR_LEN` (R7). -/
def hdrLen : Nat := 4
/-- `P_W_FIELD_MAX` (R8). -/
def wFieldMax : Nat := 2016
/-- `P_DIM_BITS` (R8). -/
def dimBits : Nat := 16
/-- BitBuf's capacity in bits, `P_W_FIELD_MAX * P_H_MAX` (R32). -/
def bitBufCapacity : Nat := wFieldMax * hMax

/-- Free value: the OPEN parameters as some printer has them (log 1). -/
opaque rawParams : Params

/-- Free value: what the pixel port answers for a column x and row y of which the host supplied no pixel (log 9). -/
opaque freePixel : Nat → Nat → Pixel

/-- Free value: what a bit of BitBuf that no CONVERT wrote reads as (log 8). -/
opaque freeBit : Nat → Bool

/-- The machine's parameters: any byte strings that R72 and R73 allow, and `P_SWITCH_INIT` at the decided value 0
(logs 1, 2). A constant without a body cannot carry the side condition itself, so a choice that breaks R72 or R73 is
replaced here; every legal choice is left as it is. -/
def params : Params :=
  { (if rawParams.wf then rawParams else Params.suggested) with switchInit := false }

end Config

end Sys2Proof
end

