-- ==== Sys2Proof/Syntax.lean ====
section
/-! DEFINITION. The commands, and what the host writes to reach them: assembler lines, image directives, host
actions. -/

namespace Sys2Proof

/-- The host command set (R61), one constructor per row of spec/opcode_table.json. ARG is an 8-bit unsigned value
taken as is (R62); only SET_ALIGN has one. -/
inductive Instr where
  | convert
  | encode
  | printImage
  | setAlign (arg : BitVec 8)
  deriving DecidableEq, Repr

/-- Why a command word is no command (R63 (a) and (b)). -/
inductive DecodeError where
  | reservedOp (op : BitVec 8)
  | nonzeroArg (op arg : BitVec 8)
  deriving DecidableEq, Repr

/-- One line of the assembler syntax (R74). -/
inductive AsmLine where
  | convert
  | encode
  | printImage
  | setAlignName (a : Align)
  | setAlignNum (n : Nat)
  | word (w : Nat)
  deriving DecidableEq, Repr

/-- The image directive (R76): every pixel listed, row 0 left to right and so on, or every pixel the same. -/
inductive ImageDirective where
  | listed (w h : Nat) (pixels : List Pixel)
  | fill (w h : Nat) (pixel : Pixel)
  deriving DecidableEq, Repr

/-- What the host can do at IDLE (R18, R141). `image` is the grid of pixels the pixel port answers from, rows top to
bottom, each row left to right. -/
inductive HostAction where
  | command (w : Word)
  | writeImgW (v : Word)
  | writeImgH (v : Word)
  | setImage (rows : List (List Pixel))
  | readStatus
  | reset
  deriving DecidableEq, Repr

end Sys2Proof
end

