-- ==== Sys2Proof/WellFormed.lean ====
section
/-! DEFINITION. Which terms of the syntax stand for something the block or its host can be given. -/

namespace Sys2Proof

/-- Every command is well formed: the one operand, ARG, is 8 bits in its type, and every value of it is a legal
SET_ALIGN word (R62, R63 (c), R64). -/
def Instr.wf : Instr → Bool
  | .convert    => true
  | .encode     => true
  | .printImage => true
  | .setAlign _ => true

/-- A line assembles when its number fits its field: `<n>` is 0..255 and a raw word has 16 bits (R74). -/
def AsmLine.wf : AsmLine → Bool
  | .convert        => true
  | .encode         => true
  | .printImage     => true
  | .setAlignName _ => true
  | .setAlignNum n  => decide (n < 256)
  | .word w         => decide (w < 65536)

/-- An image directive's W and H fit the descriptor registers (R20, R21) and a listed image has W * H pixels
(R76). -/
def ImageDirective.wf : ImageDirective → Bool
  | .listed w h pixels => decide (w < 65536) && decide (h < 65536) && decide (pixels.length = w * h)
  | .fill w h _        => decide (w < 65536) && decide (h < 65536)

end Sys2Proof
end

