-- ==== Sys2Proof/Decode.lean ====
section
/-! DEFINITION. Decoding a command word, encoding a command, assembling a line (R59 to R64, R74). -/

namespace Sys2Proof

/-- `OP`, bits [15:8] of CMD16 (R60). -/
def opOf (w : Word) : BitVec 8 := w.extractLsb' 8 8

/-- `ARG`, bits [7:0] of CMD16 (R60). -/
def argOf (w : Word) : BitVec 8 := w.extractLsb' 0 8

/-- A command whose ARG must be 0x00 (R61; R63 (b) otherwise). -/
def needZeroArg (w : Word) (i : Instr) : Except DecodeError Instr :=
  if argOf w = 0 then .ok i else .error (.nonzeroArg (opOf w) (argOf w))

/-- The opcode map (R61), total on 16-bit words (R64); a word that is no command is rejected by the name of its
reason (R63). -/
def decode (w : Word) : Except DecodeError Instr :=
  match (opOf w).toNat with
  | 0x01 => needZeroArg w .convert
  | 0x02 => needZeroArg w .encode
  | 0x03 => needZeroArg w .printImage
  | 0x04 => .ok (.setAlign (argOf w))
  | _    => .error (.reservedOp (opOf w))

/-- The command word of a command (R61): OP in [15:8], ARG in [7:0]. -/
def encode : Instr → Word
  | .convert      => 0x0100
  | .encode       => 0x0200
  | .printImage   => 0x0300
  | .setAlign arg => (0x04 : BitVec 8) ++ arg

/-- The code of an alignment, the same in ARG and in the ALIGN register (R22, R62). -/
def Align.code : Align → BitVec 2
  | .left   => 0
  | .center => 1
  | .right  => 2

/-- The word of an assembler line (R74): `SET_ALIGN <n>` is `0x0400 | n`. -/
def assemble : AsmLine → Word
  | .convert        => 0x0100
  | .encode         => 0x0200
  | .printImage     => 0x0300
  | .setAlignName a => 0x0400 ||| a.code.setWidth 16
  | .setAlignNum n  => 0x0400 ||| BitVec.ofNat 16 n
  | .word w         => BitVec.ofNat 16 w

/-- The command word whose low `nbits` bits are those of `w` and whose other bits are 0. -/
def tableWord (nbits w : Nat) : Word := BitVec.ofNat 16 (w % 2 ^ nbits)

/-- The command the decoder reads from a word numbered as spec/opcode_table.json numbers it: CMD16 is one 16-bit value,
bit 0 its least significant (R44, R60). A command longer than 16 bits does not exist (R59), so it is refused. -/
def decodeTableWord (nbits w : Nat) : Option Instr :=
  if nbits ≤ 16 then
    match decode (tableWord nbits w) with
    | .ok i    => some i
    | .error _ => none
  else none

end Sys2Proof
end

