-- ==== Sys2Proof/Machine/State.lean ====
section
/-! DEFINITION. The state of the block and of the three agents around it, the reasons a step can stop, and reset. -/

namespace Sys2Proof.Machine

open Sys2Proof

/-- The result codes (R142). No other value is ever held in ERR (R23), so no other is a constructor (log 15). -/
inductive ErrCode where
  | none
  | imageTooTall
  | widthFieldOverflow
  | noBitstream
  | transportError
  | invalidStyleValue
  | illegalCommand
  deriving DecidableEq, Repr

/-- An advisory event: `WideImage(W)`, the block's only one (R146). -/
inductive Advisory where
  | wideImage (w : Word)
  deriving DecidableEq, Repr

/-- A coming answer of the channel to one write call (R47, R48): ACCEPT, or FAIL with the draw k. -/
inductive Answer where
  | accept
  | fail (k : Nat)
  deriving DecidableEq, Repr

/-- The answer as CHAN records it: FAIL carries how many bytes of the call reached the device (R33, R48). -/
inductive Response where
  | accepted
  | failed (k : Nat)
  deriving DecidableEq, Repr

/-- One write call of CHAN: its bytes and its response, `none` while the block still waits for it (R33, R47;
log 17). -/
structure WriteCall where
  bytes    : List Byte
  response : Option Response
  deriving DecidableEq, Repr

/-- The packer (R31): the bits of the byte under assembly, first bit first, and the group buffer. -/
structure Packer where
  bits  : List Bool
  group : List Byte
  deriving DecidableEq, Repr

/-- The packer's state between commands (R31). -/
def Packer.empty : Packer := ⟨[], []⟩

/-- A write call a command still has to make (R70, R71). `group g` is body group g, bytes 4g to 4g+3. -/
inductive Part where
  | center
  | marker
  | header
  | group (g : Nat)
  | restore
  | align (a : Align)
  deriving DecidableEq, Repr

/-- Which command's write calls are being made, and so what its end does. -/
inductive Job where
  | raster
  | setAlign (a : Align)
  deriving DecidableEq, Repr

/-- The position of the block (R28): IDLE, or waiting for the answer to the last call of CHAN, with the calls that are
left to make as the remaining work (log 3). -/
inductive Pos where
  | idle
  | waiting (job : Job) (rest : List Part)
  deriving DecidableEq, Repr

/-- Every piece of state of INVENTORY.md, '## State'. -/
structure State where
  /-- `IMG_W` (R20). -/
  imgW       : Word
  /-- The host has written `IMG_W` since reset: the register holds a value in the sense of R38. -/
  imgWGiven  : Bool
  /-- `IMG_H` (R21). -/
  imgH       : Word
  /-- The host has written `IMG_H` since reset (R38). -/
  imgHGiven  : Bool
  /-- `ALIGN` (R22). -/
  align      : Align
  /-- `ERR` (R23). -/
  err        : ErrCode
  /-- `ADV` (R24). -/
  adv        : Bool
  /-- `BVALID` (R25). -/
  bvalid     : Bool
  /-- `PW` (R27). -/
  pw         : Word
  /-- `PH` (R27). -/
  ph         : Byte
  /-- `SWITCH` (R29). -/
  switch     : Bool
  /-- `SAVED_ALIGN` (R30). -/
  savedAlign : Align
  /-- The packer (R31). -/
  packer     : Packer
  /-- `BitBuf` (R32): element i is bit i. -/
  bitBuf     : List Bool
  /-- `CHAN`, oldest call first (R33). -/
  chan       : List WriteCall
  /-- `ADVLOG`, oldest event first (R34). -/
  advlog     : List Advisory
  /-- The block's position (R28). -/
  pos        : Pos
  /-- The caller's image, rows top to bottom, each left to right (R39, R45). Not the block's. -/
  image      : List (List Pixel)
  /-- What the host will do next, in order (R141; log 5). Not the block's. -/
  inbox      : List HostAction
  /-- What the channel will answer next, in order (R47; log 4). Not the block's. -/
  answers    : List Answer
  deriving DecidableEq, Repr

/-- Why the machine is stuck. -/
inductive Fault where
  /-- Raised by `step` alone, in a waiting block whose write call has no answer: the hang of R174, where the block has
  no step until the channel answers. Safe: the machine stops where the hardware waits. -/
  | channelUnanswered
  deriving DecidableEq, Repr

/-- Why a command has no meaning. -/
inductive Refusal where
  /-- Raised by no arm: every command has its meaning. Safe. -/
  | notModelled (mnemonic : String)
  /-- Raised by every command given while the block is not IDLE: the host broke DUTY_ONE_AT_A_TIME and has no move
  (R59, R140). `step` never raises it. Safe: the model stops where the spec gives no behaviour. -/
  | commandWhileBusy
  deriving DecidableEq, Repr

/-- The block right after reset (R162). IMG_W, IMG_H and SAVED_ALIGN hold the values that logs 6 and 7 name; BitBuf and
the image have nothing listed (logs 8, 9); no host action and no channel answer has come yet (logs 4, 5). -/
def State.reset : State where
  imgW       := 0
  imgWGiven  := false
  imgH       := 0
  imgHGiven  := false
  align      := .left
  err        := .none
  adv        := false
  bvalid     := false
  pw         := 0
  ph         := 0
  switch     := Config.params.switchInit
  savedAlign := .left
  packer     := .empty
  bitBuf     := []
  chan       := []
  advlog     := []
  pos        := .idle
  image      := []
  inbox      := []
  answers    := []

end Sys2Proof.Machine
end

