-- ==== Sys2Proof/Machine/Operands.lean ====
section
/-! DEFINITION. The operands of the commands: the image descriptor and the pixel port, the padding computed from the
width, luminance and levels, the alignment argument, and what ENCODE reads of PW, PH and BitBuf. -/

namespace Sys2Proof.Machine

open Sys2Proof

/-! ### The image (R39, R45) -/

/-- `Pixel(x, y)` (R45): column x from the left, row y from the top. A pixel the host did not supply reads as a free
value (log 9). -/
def pixelAt (image : List (List Pixel)) (x y : Nat) : Pixel :=
  (image.getD y []).getD x (Config.freePixel x y)

/-- The pixels of row y that CONVERT reads: x from 0 to W-1 (R87). -/
def imageRow (image : List (List Pixel)) (w y : Nat) : List Pixel :=
  (List.range w).map fun x => pixelAt image x y

/-- The rows CONVERT reads: y from 0 to H-1 (R87). -/
def imageRows (image : List (List Pixel)) (w h : Nat) : List (List Pixel) :=
  (List.range h).map fun y => imageRow image w y

/-! ### Padding (R80, R81) -/

/-- The number of padding pixels of each row (R80). -/
def border (w : Nat) : Nat := (Config.padQuantum - w % Config.padQuantum) % Config.padQuantum

/-- Padding pixels before the image pixels: the floor half (R81). -/
def leftPad (w : Nat) : Nat := border w / 2

/-- Padding pixels after the image pixels: the remainder (R81). -/
def rightPad (w : Nat) : Nat := border w - leftPad w

/-- The padded width (R81). -/
def paddedWidth (w : Nat) : Nat := w + leftPad w + rightPad w

/-! ### Luminance and levels (R83 to R86) -/

/-- `L = r + g + b`, exact and unweighted (R83). -/
def luminance (px : Pixel) : Nat := px.r.toNat + px.g.toNat + px.b.toNat

/-- `pixbit(L, s)` (R86): each threshold belongs to the darker level (R84); s is SWITCH after this pixel's toggle. -/
def pixbit (lum : Nat) (switch : Bool) : Bool :=
  if lum ≤ Config.t1 then true
  else if lum ≤ Config.t2 then switch
  else false

/-! ### The alignment argument (R62) -/

/-- SET_ALIGN's ARG as an alignment: 0 LEFT, 1 CENTER, 2 RIGHT, 3 to 255 outside the vocabulary (R62, R63 (c)). -/
def alignOfArg (arg : BitVec 8) : Option Align :=
  match arg.toNat with
  | 0 => some .left
  | 1 => some .center
  | 2 => some .right
  | _ => none

/-! ### What ENCODE reads (R96) -/

/-- `WB = PW / 8` (R67, R96). -/
def widthBytes (s : State) : Nat := s.pw.toNat / 8

/-- The body length in bytes, `n = WB * PH` (R96). -/
def bodyLen (s : State) : Nat := widthBytes s * s.ph.toNat

/-- How many body calls: full groups, and one more for a partial group (R100, R101). -/
def groupCount (s : State) : Nat := (bodyLen s + (Config.group - 1)) / Config.group

/-- How many bytes body group g holds: 4, or what is left of the body (R100, R101). -/
def groupLen (s : State) (g : Nat) : Nat := min Config.group (bodyLen s - Config.group * g)

/-- The header `[WB, 0x00, PH, 0x00]` (R67). -/
def headerBytes (s : State) : List Byte := [BitVec.ofNat 8 (widthBytes s), 0x00, s.ph, 0x00]

end Sys2Proof.Machine
end

