-- ==== Sys2Proof/Machine/Flags.lean ====
section
/-! DEFINITION. The one-bit status flags ADV and BVALID (R24, R25, R26), and the codes of ERR (R142). -/

namespace Sys2Proof.Machine

open Sys2Proof

/-- ADV as a passing CONVERT writes it: 1 when `IMG_W > 512` (R24). -/
def advOf (w : Nat) : Bool := decide (w > Config.wAdvise)

/-- The events a passing CONVERT appends to ADVLOG: `WideImage(W)` exactly when it writes ADV = 1 (R34, R146). -/
def adviceOf (w : Word) : List Advisory := if advOf w.toNat then [.wideImage w] else []

/-- The 8-bit code of a result in ERR (R23, R142). -/
def ErrCode.code : ErrCode → BitVec 8
  | .none               => 0
  | .imageTooTall       => 1
  | .widthFieldOverflow => 2
  | .noBitstream        => 3
  | .transportError     => 4
  | .invalidStyleValue  => 5
  | .illegalCommand     => 6

/-- A CONVERT's check of its operands, in the order of R79 and R148: the error that ends it, if any. -/
def convertCheck (w h : Nat) : Option ErrCode :=
  if h > Config.hMax then some .imageTooTall
  else if w > Config.wFieldMax then some .widthFieldOverflow
  else none

end Sys2Proof.Machine
end

