-- ==== Sys2Proof/Machine/Ops.lean ====
section
/-! DEFINITION. The operations every command is written over: BitBuf, the packer, ending a command (raise and
succeed), offering a write call and waiting for its answer. -/

namespace Sys2Proof.Machine

open Sys2Proof

/-! ### BitBuf (R32, R46)

A memory of single bits indexed from 0. CONVERT writes from bit 0 on without a gap, so the bits ever written are a
prefix, and the list of them, element i being bit i, is the memory's one canonical form: equal memories are equal
lists. -/

/-- The form of the bit memory: it holds no more bits than its capacity (R32). -/
def Memory.wf (m : List Bool) : Bool := decide (m.length ≤ Config.bitBufCapacity)

/-- `BitBuf[i]` (R11); a bit that nothing wrote is a free value (log 8). -/
def Memory.read (m : List Bool) (i : Nat) : Bool := m.getD i (Config.freeBit i)

/-- A CONVERT's writes: the i-th emitted bit is BitBuf[i], over what stood there (R87, R95); a bit past the emitted ones
is not written and keeps its value (R77). -/
def Memory.load (old emitted : List Bool) : List Bool := emitted ++ old.drop emitted.length

/-- `BitBuf[i]` of a state. -/
def bitAt (s : State) (i : Nat) : Bool := Memory.read s.bitBuf i

/-! ### The packer (R31, R40, R100) -/

/-- A byte from its bits, the first in the most significant place (R40). -/
def byteOfBits (bits : List Bool) : Byte :=
  BitVec.ofNat 8 (bits.foldl (fun acc b => 2 * acc + b.toNat) 0)

/-- One bit enters the byte under assembly; the eighth completes it, and it joins the group (R31, R69). -/
def Packer.pushBit (k : Packer) (b : Bool) : Packer :=
  if k.bits.length + 1 = 8 then ⟨[], k.group ++ [byteOfBits (k.bits ++ [b])]⟩
  else ⟨k.bits ++ [b], k.group⟩

/-- The bits of body group g, in index order (R100). -/
def groupBits (s : State) (g : Nat) : List Bool :=
  (List.range (8 * groupLen s g)).map fun t => bitAt s (8 * (Config.group * g) + t)

/-- The packer once body group g is packed (R100, R101). -/
def packGroup (s : State) (g : Nat) : Packer := (groupBits s g).foldl Packer.pushBit s.packer

/-! ### Ending a command -/

/-- `raise E`: ERR takes E's code and the block returns to IDLE; nothing is saved and nothing else changes (R143).
This is all there is to taking an exception on this block: no handler, no mode, no saved position (R150). -/
def raise (e : ErrCode) (s : State) : State := { s with err := e, pos := .idle }

/-- A command ends without error: ERR is 0 and the block is IDLE (R23, R161). There is no other return (R151). -/
def succeed (s : State) : State := { s with err := .none, pos := .idle }

/-- A command is accepted while the block is IDLE and only then (R59); otherwise the host broke DUTY_ONE_AT_A_TIME and
has no move (R140; log 13). -/
def onIdle (s : State) (run : State → Host.Outcome State Fault Refusal) : Host.Outcome State Fault Refusal :=
  match s.pos with
  | .idle        => run s
  | .waiting _ _ => .refused .commandWhileBusy

/-! ### Write calls (R47, R48, R104) -/

/-- The byte string of a write call (R70, R71). -/
def partBytes (p : Params) (s : State) : Part → List Byte
  | .center  => p.alignCmd .center
  | .marker  => p.marker
  | .header  => headerBytes s
  | .group g => (packGroup s g).group
  | .restore => p.alignCmd s.savedAlign
  | .align a => p.alignCmd a

/-- The packer while a call is offered: a body call sends the group buffer (R31, R100). -/
def partPacker (s : State) : Part → Packer
  | .group g => packGroup s g
  | .center | .marker | .header | .restore | .align _ => s.packer

/-- The first half of `ChanWrite`: the call joins CHAN, not yet answered (R47). -/
def offer (p : Params) (part : Part) (s : State) : State :=
  { s with packer := partPacker s part, chan := s.chan ++ [⟨partBytes p s part, none⟩] }

/-- What CHAN records of an answer to a call of these bytes: a failed call delivered a prefix (R48). -/
def respond (a : Answer) (bytes : List Byte) : Response :=
  match a with
  | .accept => .accepted
  | .fail k => .failed (min k bytes.length)

/-- The answer to the last call of CHAN is recorded with it (R47). -/
def settleLast (a : Answer) : List WriteCall → List WriteCall
  | []           => []
  | [c]          => [{ c with response := some (respond a c.bytes) }]
  | c :: d :: cs => c :: settleLast a (d :: cs)

/-- The packer once a call is answered: in a raster print the group buffer is empty again (R31; log 11); SET_ALIGN does
not use the packer. -/
def answeredPacker (job : Job) (k : Packer) : Packer :=
  match job with
  | .raster     => .empty
  | .setAlign _ => k

/-- The second half of `ChanWrite`: the channel's answer is taken and recorded (R47). -/
def answered (job : Job) (a : Answer) (more : List Answer) (s : State) : State :=
  { s with answers := more, chan := settleLast a s.chan, packer := answeredPacker job s.packer }

/-- The end of a command whose calls were all accepted: SET_ALIGN records its alignment (R116), ENCODE writes nothing
but ERR (R96, R103, R105). -/
def complete (job : Job) (s : State) : State :=
  match job with
  | .raster     => succeed s
  | .setAlign a => succeed { s with align := a }

/-- The block waits for the answer to the last call of CHAN, with the calls `rest` left to make (R47, R55). On ACCEPT
it makes the next call, or ends; on FAIL it ends with TransportError and makes no further call (R104); without an
answer it waits (R174). -/
def await (p : Params) (job : Job) : List Part → State → State
  | rest, s =>
    match s.answers with
    | []              => { s with pos := .waiting job rest }
    | .fail k :: more => raise .transportError (answered job (.fail k) more s)
    | .accept :: more =>
      match rest with
      | []         => complete job (answered job .accept more s)
      | part :: qs => await p job qs (offer p part (answered job .accept more s))

/-- A command makes its write calls, in order (R54). -/
def sendAll (p : Params) (job : Job) (parts : List Part) (s : State) : State :=
  match parts with
  | []         => complete job s
  | part :: qs => await p job qs (offer p part s)

end Sys2Proof.Machine
end

