-- ==== Sys2Proof/Machine/Control.lean ====
section
/-! DEFINITION. SET_ALIGN (R116 to R118) and the command words that are no command (R119). -/

namespace Sys2Proof.Machine

open Sys2Proof

/-- SET_ALIGN from IDLE, for given parameters: an argument outside the vocabulary sends nothing; a legal one makes one
call, whatever ALIGN holds, and ALIGN is written when that call is accepted (R116, R117, R118). -/
def runSetAlign (p : Params) (arg : BitVec 8) (s : State) : State :=
  match alignOfArg arg with
  | none   => raise .invalidStyleValue s
  | some a => sendAll p (.setAlign a) [.align a] s

/-- SET_ALIGN (R116). -/
def execSetAlign (arg : BitVec 8) (s : State) : Host.Outcome State Fault Refusal :=
  onIdle s fun s => .next (runSetAlign Config.params arg s)

/-- A command word that is no command ends at once with IllegalCommand (R119). -/
def illegalCommand (s : State) : Host.Outcome State Fault Refusal :=
  onIdle s fun s => .next (raise .illegalCommand s)

end Sys2Proof.Machine
end

