-- ==== Sys2Proof/Machine/Convert.lean ====
section
/-! DEFINITION. CONVERT (R77 to R95): padding, luminance, the three-level dither, the padded bitstream. -/

namespace Sys2Proof.Machine

open Sys2Proof

/-- The bits of one row's pixels and SWITCH after them: the switch toggles at every pixel, before the pixel's bit is
chosen (R85). -/
def ditherRow : List Pixel → Bool → List Bool × Bool
  | [], switch            => ([], switch)
  | px :: pixels, switch =>
    let more := ditherRow pixels (!switch)
    (pixbit (luminance px) (!switch) :: more.1, more.2)

/-- The emitted bitstream and SWITCH after it: for each row, `lp` zero bits, the pixels' bits, `rp` zero bits; padding
does not toggle the switch and a row boundary does not reset it (R85, R87). -/
def emitRows (lp rp : Nat) : List (List Pixel) → Bool → List Bool × Bool
  | [], switch           => ([], switch)
  | row :: rows, switch =>
    let bits := ditherRow row switch
    let more := emitRows lp rp rows bits.2
    (List.replicate lp false ++ bits.1 ++ List.replicate rp false ++ more.1, more.2)

/-- What CONVERT writes once its checks passed, all but ERR (R77, R88). -/
def convertImage (p : Params) (s : State) : State :=
  let w := s.imgW.toNat
  let h := s.imgH.toNat
  let out := emitRows (leftPad w) (rightPad w) (imageRows s.image w h) p.switchInit
  { s with
    adv    := advOf w
    advlog := s.advlog ++ adviceOf s.imgW
    switch := out.2
    bitBuf := Memory.load s.bitBuf out.1
    pw     := BitVec.ofNat 16 (paddedWidth w)
    ph     := BitVec.ofNat 8 h
    bvalid := true }

/-- The body of CONVERT up to its write of ERR: the error that ends it, before any change (R79), or the converted
state. -/
def convertBody (p : Params) (s : State) : Except ErrCode State :=
  match convertCheck s.imgW.toNat s.imgH.toNat with
  | some e => .error e
  | none   => .ok (convertImage p s)

/-- CONVERT from IDLE, for given parameters. -/
def runConvert (p : Params) (s : State) : State :=
  match convertBody p s with
  | .error e => raise e s
  | .ok s'   => succeed s'

/-- CONVERT (R77). -/
def execConvert (s : State) : Host.Outcome State Fault Refusal :=
  onIdle s fun s => .next (runConvert Config.params s)

end Sys2Proof.Machine
end

