-- ==== Sys2Proof/Machine/Encode.lean ====
section
/-! DEFINITION. ENCODE (R96 to R109) and PRINT_IMAGE (R110 to R115). -/

namespace Sys2Proof.Machine

open Sys2Proof

/-- The write calls of a raster print, in order: center command, marker, header, the body groups, restore command
(R65, R70, R99 to R103). -/
def rasterParts (s : State) : List Part :=
  [.center, .marker, .header] ++ (List.range (groupCount s)).map .group ++ [.restore]

/-- ENCODE's start: ALIGN is saved, the bitstream is consumed, the group buffer is empty (R96, R98). -/
def beginRaster (s : State) : State := { s with savedAlign := s.align, bvalid := false, packer := .empty }

/-- ENCODE from IDLE, for given parameters (R96, R97). -/
def runEncode (p : Params) (s : State) : State :=
  if s.bvalid then sendAll p .raster (rasterParts s) (beginRaster s)
  else raise .noBitstream s

/-- PRINT_IMAGE from IDLE, for given parameters: CONVERT's body, then, if it raised nothing, ENCODE's (R110, R111).
ERR is written once, when the command ends (R23; log 10). -/
def runPrintImage (p : Params) (s : State) : State :=
  match convertBody p s with
  | .error e => raise e s
  | .ok s'   => runEncode p s'

/-- ENCODE (R96). -/
def execEncode (s : State) : Host.Outcome State Fault Refusal :=
  onIdle s fun s => .next (runEncode Config.params s)

/-- PRINT_IMAGE (R110). -/
def execPrintImage (s : State) : Host.Outcome State Fault Refusal :=
  onIdle s fun s => .next (runPrintImage Config.params s)

end Sys2Proof.Machine
end

