-- ==== Sys2Proof/Machine/Dispatch.lean ====
section
/-! DEFINITION. Which meaning each command has (R61). -/

namespace Sys2Proof.Machine

open Sys2Proof

def exec (i : Instr) (s : State) : Host.Outcome State Fault Refusal :=
  match i with
  | .convert => Sys2Proof.Machine.execConvert s
  | .encode => Sys2Proof.Machine.execEncode s
  | .printImage => Sys2Proof.Machine.execPrintImage s
  | .setAlign arg => Sys2Proof.Machine.execSetAlign arg s

end Sys2Proof.Machine
end

