-- ==== Sys2Proof/Machine/HostPort.lean ====
section
/-! DEFINITION. The host's ports other than the command port: image descriptor, image, reset, status (R18, R37, R141),
the image directive (R76), and what an observer outside the block sees (R17). -/

namespace Sys2Proof.Machine

open Sys2Proof

/-! ### Host actions at IDLE that are no command -/

/-- The host writes `IMG_W`: every value is legal (R20). -/
def writeImgW (v : Word) (s : State) : State := { s with imgW := v, imgWGiven := true }

/-- The host writes `IMG_H`: every value is legal (R21). -/
def writeImgH (v : Word) (s : State) : State := { s with imgH := v, imgHGiven := true }

/-- The host changes its image between commands; no block register changes (R57, R76, R169). -/
def setImage (rows : List (List Pixel)) (s : State) : State := { s with image := rows }

/-- Reset (R162): every register and log takes its reset value, and nothing is sent (R163). The image, the host's
further actions and the channel's further answers are not the block's and stay (log 14). -/
def resetBlock (s : State) : State :=
  { State.reset with image := s.image, inbox := s.inbox, answers := s.answers }

/-! ### The status port (R37) -/

/-- What the status port shows of the registers. -/
structure Status where
  align  : BitVec 2
  err    : BitVec 8
  adv    : Bool
  bvalid : Bool
  pw     : Word
  ph     : Byte
  deriving DecidableEq, Repr

/-- The status registers, readable while the block is IDLE (R37, R121). -/
def readStatus (s : State) : Option Status :=
  match s.pos with
  | .idle        => some ⟨s.align.code, s.err.code, s.adv, s.bvalid, s.pw, s.ph⟩
  | .waiting _ _ => none

/-- Bit i of BitBuf through the status port: readable for `i < PW * PH` while BVALID = 1 and the block is IDLE (R37,
R107). -/
def readBit (s : State) (i : Nat) : Option Bool :=
  match s.pos with
  | .idle        => if s.bvalid ∧ i < s.pw.toNat * s.ph.toNat then some (bitAt s i) else none
  | .waiting _ _ => none

/-- A status read changes no state, makes no write call and does not write ERR (R121; log 22). -/
def statusRead (s : State) : State := s

/-! ### The image directive (R76) and the image calls of R75 -/

/-- The grid of a directive. -/
def gridOf : ImageDirective → List (List Pixel)
  | .listed w h pixels => (List.range h).map fun y => (pixels.drop (y * w)).take w
  | .fill w h pixel    => List.replicate h (List.replicate w pixel)

/-- The host actions a directive stands for: it writes IMG_W and IMG_H and makes the pixel port answer its pixels. -/
def directiveActions (d : ImageDirective) : List HostAction :=
  match d with
  | .listed w h _ | .fill w h _ => [.writeImgW (BitVec.ofNat 16 w), .writeImgH (BitVec.ofNat 16 h), .setImage (gridOf d)]

/-- Printing an image, as `image`, `qr` and the image strategy of `barcode` reduce to block commands (R75, R122). -/
def printActions (d : ImageDirective) : List HostAction := directiveActions d ++ [.command (encode .printImage)]

/-- `set(align=v)` reduces to SET_ALIGN v, and a `set` without `align` to SET_ALIGN LEFT (R75, R127, R128). -/
def setActions (align : Option Align) : List HostAction :=
  [.command (assemble (.setAlignName (align.getD .left)))]

/-! ### What is observed (R17) -/

/-- The bytes of a call that the channel accepted. -/
def acceptedBytes (c : WriteCall) : List Byte :=
  match c.response with
  | some .accepted => c.bytes
  | some (.failed _) | none => []

/-- The protocol-level output: the concatenation of the bytes the channel accepted (R17). -/
def protocolBytes (s : State) : List Byte := s.chan.flatMap acceptedBytes

/-- The bytes of a call that reached the device: all on ACCEPT, a prefix on FAIL, none known while unanswered (R47,
R48). -/
def deliveredBytes (c : WriteCall) : List Byte :=
  match c.response with
  | some .accepted   => c.bytes
  | some (.failed k) => c.bytes.take k
  | none             => []

/-- The bytes that reached the device, in order (R43, R51). -/
def deviceBytes (s : State) : List Byte := s.chan.flatMap deliveredBytes

end Sys2Proof.Machine
end

