-- ==== Sys2Proof/Machine/Step.lean ====
section
/-! DEFINITION. One step: at IDLE the host's next action is taken, while waiting the channel's next answer. -/

namespace Sys2Proof.Machine

open Sys2Proof

/-- A command word on the command port: the command it decodes to, or IllegalCommand (R64, R119). -/
def issue (w : Word) (s : State) : Host.Outcome State Fault Refusal :=
  match decode w with
  | .ok i    => exec i s
  | .error _ => illegalCommand s

/-- The host's action `a` is taken at IDLE (R141). -/
def hostStep (a : HostAction) (s : State) : Host.Outcome State Fault Refusal :=
  match a with
  | .command w     => issue w s
  | .writeImgW v   => .next (writeImgW v s)
  | .writeImgH v   => .next (writeImgH v s)
  | .setImage rows => .next (setImage rows s)
  | .readStatus    => .next (statusRead s)
  | .reset         => .next (resetBlock s)

/-- One step. An IDLE block with no host action keeps all its state (R159; log 12). A waiting block has a step only
when the channel answers (R174; log 12); the answer resumes its command (R13; log 3). -/
def step (s : State) : Host.Outcome State Fault Refusal :=
  match s.pos with
  | .idle =>
    match s.inbox with
    | []           => .next s
    | a :: actions => hostStep a { s with inbox := actions }
  | .waiting job rest =>
    match s.answers with
    | []     => .fault .channelUnanswered
    | _ :: _ => .next (await Config.params job rest s)

/-- The state in which the host's next action is the command word `w` and the block is IDLE, so that the very next step
runs it. Nothing else is changed (log 5). -/
def State.withFetchWord (s : State) (nbits w : Nat) : State :=
  { s with pos := .idle, inbox := .command (tableWord nbits w) :: s.inbox }

end Sys2Proof.Machine
end

