-- ==== Sys2Proof/Safety.lean ====
section
/-! DEFINITION. What a safe run is: the invariant of the block's state, and the host's and channel's duties (R140). -/

namespace Sys2Proof.Machine

open Sys2Proof

/-- What every call of CHAN satisfies: it carries at least one byte (R47), and a failed one delivered at most all of
its bytes (R48). -/
def CallOk (c : WriteCall) : Prop :=
  c.bytes ≠ [] ∧ ∀ k, c.response = some (.failed k) → k ≤ c.bytes.length

/-- Every call is answered at IDLE; a waiting block waits for the answer to the last call alone (R47, R55). -/
def CallsAnswered (s : State) : Prop :=
  match s.pos with
  | .idle        => ∀ c ∈ s.chan, c.response ≠ none
  | .waiting _ _ => ∃ earlier bytes, s.chan = earlier ++ [⟨bytes, none⟩] ∧ ∀ c ∈ earlier, c.response ≠ none

/-- The remaining work is the tail of what the command still has to send, and ENCODE has consumed its bitstream (R28,
R54, R98). -/
def PositionOk (s : State) : Prop :=
  match s.pos with
  | .idle                  => s.packer = .empty
  | .waiting .raster rest  => s.bvalid = false ∧ ∃ done, done ≠ [] ∧ rasterParts s = done ++ rest
  | .waiting (.setAlign _) rest => s.packer = .empty ∧ rest = []

/-- The invariant of the block: what R27, R31, R32, R47, R146 say of every state a session reaches. -/
structure Inv (s : State) : Prop where
  /-- PW is a multiple of 32 (R27). -/
  pwAligned : s.pw.toNat % 32 = 0
  /-- PW is at most 2016 (R27). -/
  pwBound   : s.pw.toNat ≤ 2016
  /-- BitBuf holds the PW * PH bits of the last bitstream (R32). -/
  bufHolds  : s.pw.toNat * s.ph.toNat ≤ s.bitBuf.length
  /-- BitBuf holds no more than its capacity (R32). -/
  bufForm   : Memory.wf s.bitBuf = true
  /-- The group buffer holds at most 4 bytes, and no byte is under assembly between steps (R31). -/
  packerOk  : s.packer.bits = [] ∧ s.packer.group.length ≤ 4
  /-- Every write call is well formed (R47, R48). -/
  callsOk   : ∀ c ∈ s.chan, CallOk c
  /-- At most the last call is unanswered (R47, R55). -/
  answered  : CallsAnswered s
  /-- The position fits the command (R28); the packer is empty between commands (R31). -/
  position  : PositionOk s
  /-- ADVLOG holds only events of widths 513..2016 (R146). -/
  advice    : ∀ e ∈ s.advlog, ∃ w, e = .wideImage w ∧ 512 < w.toNat ∧ w.toNat ≤ 2016

/-- DUTY_DESCRIPTOR (R140): the host has written IMG_W and IMG_H before a CONVERT or PRINT_IMAGE. The model runs these
commands all the same, on the values it names for reset (log 6); a claim about the hardware assumes this duty. -/
def DutyDescriptor (i : Instr) (s : State) : Prop :=
  match i with
  | .convert | .printImage => s.imgWGiven = true ∧ s.imgHGiven = true
  | .encode | .setAlign _  => True

/-- DUTY_ANSWER (R140): a waiting block's write call is answered. -/
def DutyAnswer (s : State) : Prop := s.pos = .idle ∨ s.answers ≠ []

/-- A safe step: the block is not left waiting for an answer that does not come. -/
def SafeStep (s : State) : Prop := ∃ t, step s = .next t

end Sys2Proof.Machine
end

