-- ==== Sys2Proof/Certificates/Slice0/Obligations.lean ====
section
/-! DEFINITION. The statements for the provers. -/

namespace Sys2Proof.Claims

open Sys2Proof Sys2Proof.Machine

/-- A write call the channel accepted. -/
def accepted (bytes : List Byte) : WriteCall := ⟨bytes, some .accepted⟩

/-- Bit i of BitBuf as a byte, 0 or 1. -/
def bit (s : State) (i : Nat) : Byte := if bitAt s i then 1 else 0

/-- Body byte j (R69): bits 8j to 8j+7 of the bitstream, the first in bit 7. -/
def bodyByte (s : State) (j : Nat) : Byte :=
  bit s (8 * j) <<< 7 ||| bit s (8 * j + 1) <<< 6 ||| bit s (8 * j + 2) <<< 5 ||| bit s (8 * j + 3) <<< 4 |||
    bit s (8 * j + 4) <<< 3 ||| bit s (8 * j + 5) <<< 2 ||| bit s (8 * j + 6) <<< 1 ||| bit s (8 * j + 7)

/-- The body length, `WB * PH` with `WB = PW / 8` (R69). -/
def bodyBytes (s : State) : Nat := s.pw.toNat / 8 * s.ph.toNat

/-- Body call g (R70, R101): bytes 4g to 4g+3, or what is left of the body. -/
def bodyCall (s : State) (g : Nat) : List Byte :=
  (List.range (min 4 (bodyBytes s - 4 * g))).map fun i => bodyByte s (4 * g + i)

/-- The header (R67). -/
def header (s : State) : List Byte := [BitVec.ofNat 8 (s.pw.toNat / 8), 0x00, s.ph, 0x00]

/-- The write calls of an ENCODE that starts in s (R70). -/
def rasterCalls (s : State) : List (List Byte) :=
  [Config.params.alignCmd .center, Config.params.marker, header s] ++
    (List.range ((bodyBytes s + 3) / 4)).map (bodyCall s) ++ [Config.params.alignCmd s.align]

/-- The bit of image pixel number k, by its luminance (R84, R86) and, for a midtone, by the toggle in closed form
(R89). -/
def ruleBit (px : Pixel) (k : Nat) : Bool :=
  if px.r.toNat + px.g.toNat + px.b.toNat ≤ 255 then true
  else if px.r.toNat + px.g.toNat + px.b.toNat ≤ 510 then Config.params.switchInit ^^ decide ((k + 1) % 2 = 1)
  else false

/-- Two states present the same image to CONVERT: the same descriptor, and the same pixel at every place it names. -/
def SameImage (s t : State) : Prop :=
  s.imgW = t.imgW ∧ s.imgH = t.imgH ∧
    ∀ x y, x < s.imgW.toNat → y < s.imgH.toNat → pixelAt s.image x y = pixelAt t.image x y

/-- What neither an error nor a write call nor an answer changes in any command. -/
def HostSideSame (s t : State) : Prop :=
  t.imgW = s.imgW ∧ t.imgWGiven = s.imgWGiven ∧ t.imgH = s.imgH ∧ t.imgHGiven = s.imgHGiven ∧
    t.image = s.image ∧ t.inbox = s.inbox

end Sys2Proof.Claims

open Sys2Proof Sys2Proof.Machine Sys2Proof.Claims

/-! ### Encoding -/

/-- Decoding an encoded command gives it back, and a word that decodes to a command is that command's word
(R61, R64). -/
def Obligations.DecodeEncodeAgree : Prop :=
  (∀ i : Instr, i.wf = true → decode (encode i) = .ok i) ∧
  (∀ (w : Word) (i : Instr), decode w = .ok i → i.wf = true ∧ encode i = w)

/-- Every word is exactly one of the commands or illegal, by OP and ARG alone (R61, R63, R64). -/
def Obligations.DecodeByOpAndArg : Prop :=
  ∀ w : Word,
    (decode w = .ok .convert ↔ w = 0x0100) ∧
    (decode w = .ok .encode ↔ w = 0x0200) ∧
    (decode w = .ok .printImage ↔ w = 0x0300) ∧
    (∀ a, decode w = .ok (.setAlign a) ↔ w.toNat / 256 = 0x04 ∧ a.toNat = w.toNat % 256) ∧
    ((∃ e, decode w = .error e) ↔
      w.toNat / 256 = 0 ∨ 0x05 ≤ w.toNat / 256 ∨ (w.toNat / 256 ≤ 0x03 ∧ w.toNat % 256 ≠ 0))

/-- Words written out from the opcode map (R61) and the nearest illegal ones (R63). -/
def Obligations.OpcodeMapWordsDecode : Prop :=
  decode 0b0000000100000000 = .ok .convert ∧ decode 0b0000001000000000 = .ok .encode ∧
  decode 0b0000001100000000 = .ok .printImage ∧ decode 0b0000010000000010 = .ok (.setAlign 2) ∧
  decode 0b0000010011111111 = .ok (.setAlign 255) ∧ decode 0x0101 = .error (.nonzeroArg 1 1) ∧
  decode 0x0500 = .error (.reservedOp 5) ∧ decode 0x0005 = .error (.reservedOp 0)

/-- The assembler's command lines decode to their commands: `SET_ALIGN <n>` for every n of the field, the three names,
and the commands without operand (R62, R74). -/
def Obligations.AssembledLinesDecode : Prop :=
  decode (assemble .convert) = .ok .convert ∧ decode (assemble .encode) = .ok .encode ∧
  decode (assemble .printImage) = .ok .printImage ∧
  assemble (.setAlignName .left) = 0x0400 ∧ assemble (.setAlignName .center) = 0x0401 ∧
  assemble (.setAlignName .right) = 0x0402 ∧
  (∀ n, (AsmLine.setAlignNum n).wf = true → decode (assemble (.setAlignNum n)) = .ok (.setAlign (BitVec.ofNat 8 n))) ∧
  (∀ w, (AsmLine.word w).wf = true → (assemble (.word w)).toNat = w)

/-! ### Steps and the host's ports -/

/-- At IDLE, a command word that decodes to i is run as i, once it has left the command port. -/
def Obligations.StepRunsDecodedCommand : Prop :=
  ∀ (s : State) (w : Word) (rest : List HostAction) (i : Instr),
    s.pos = .idle → s.inbox = .command w :: rest → decode w = .ok i →
      step s = exec i { s with inbox := rest }

/-- A word that is no command ends with IllegalCommand, code 6, and changes nothing but ERR (R119). -/
def Obligations.IllegalWordChangesErrOnly : Prop :=
  ∀ (s : State) (w : Word) (rest : List HostAction),
    s.pos = .idle → s.inbox = .command w :: rest →
    (w.toNat / 256 = 0 ∨ 0x05 ≤ w.toNat / 256 ∨ (w.toNat / 256 ≤ 0x03 ∧ w.toNat % 256 ≠ 0)) →
      step s = .next { s with inbox := rest, err := .illegalCommand } ∧ ErrCode.illegalCommand.code = 6

/-- The word placed by withFetchWord is the one the next step runs. -/
def Obligations.FetchedWordRunsNext : Prop :=
  ∀ (s : State) (i : Instr),
    step (s.withFetchWord 16 (encode i).toNat) = exec i { s with pos := .idle }

/-- At IDLE the host writes IMG_W, IMG_H and the image, and nothing else changes (R20, R21, R57, R141). -/
def Obligations.HostWritesDescriptorAndImage : Prop :=
  ∀ (s : State) (rest : List HostAction), s.pos = .idle →
    (∀ v, s.inbox = .writeImgW v :: rest → step s = .next { s with inbox := rest, imgW := v, imgWGiven := true }) ∧
    (∀ v, s.inbox = .writeImgH v :: rest → step s = .next { s with inbox := rest, imgH := v, imgHGiven := true }) ∧
    (∀ g, s.inbox = .setImage g :: rest → step s = .next { s with inbox := rest, image := g })

/-- A status read changes no state, makes no write call and does not write ERR (R121). -/
def Obligations.StatusReadChangesNothing : Prop :=
  ∀ (s : State) (rest : List HostAction), s.pos = .idle → s.inbox = .readStatus :: rest →
    step s = .next { s with inbox := rest }

/-- The status port shows ALIGN, ERR, ADV, BVALID, PW and PH by their codes at IDLE, and BitBuf bit i exactly while
BVALID = 1 and i < PW * PH; while a command runs it shows nothing (R22, R37, R142). -/
def Obligations.StatusPortShowsRegisters : Prop :=
  ∀ s : State,
    (s.pos = .idle →
      (∃ st, readStatus s = some st ∧
        st.align.toNat = (match s.align with | .left => 0 | .center => 1 | .right => 2) ∧
        st.err.toNat = (match s.err with
          | .none => 0 | .imageTooTall => 1 | .widthFieldOverflow => 2 | .noBitstream => 3 | .transportError => 4
          | .invalidStyleValue => 5 | .illegalCommand => 6) ∧
        st.adv = s.adv ∧ st.bvalid = s.bvalid ∧ st.pw = s.pw ∧ st.ph = s.ph) ∧
      ∀ i, (s.bvalid = true ∧ i < s.pw.toNat * s.ph.toNat → readBit s i = some (bitAt s i)) ∧
        (s.bvalid = false ∨ s.pw.toNat * s.ph.toNat ≤ i → readBit s i = none)) ∧
    (s.pos ≠ .idle → readStatus s = none ∧ ∀ i, readBit s i = none)

/-- Reset gives every register and log its reset value and sends nothing; IMG_W and IMG_H are then not written
(R162, R163). -/
def Obligations.ResetTakesResetValues : Prop :=
  ∀ (s : State) (rest : List HostAction), s.pos = .idle → s.inbox = .reset :: rest →
    ∃ t, step s = .next t ∧ t.align = .left ∧ t.err.code = 0 ∧ t.adv = false ∧ t.bvalid = false ∧ t.pw = 0 ∧ t.ph = 0 ∧
      t.switch = Config.params.switchInit ∧ t.packer = ⟨[], []⟩ ∧ t.chan = [] ∧ t.advlog = [] ∧ t.pos = .idle ∧
      t.imgWGiven = false ∧ t.imgHGiven = false

/-- An IDLE block with no host action keeps all its state (R159; log 12). -/
def Obligations.IdleBlockKeepsState : Prop :=
  ∀ s : State, s.pos = .idle → s.inbox = [] → step s = .next s

/-- A command is accepted at IDLE alone: while a command waits for an answer every command is refused
(R59, R140; log 13). -/
def Obligations.CommandRefusedWhileWaiting : Prop :=
  ∀ (i : Instr) (s : State), s.pos ≠ .idle → exec i s = .refused .commandWhileBusy

/-- A write call that is not answered leaves the block without a step (R174; log 12). -/
def Obligations.UnansweredCallHangs : Prop :=
  ∀ (s : State) (job : Job) (rest : List Part), s.pos = .waiting job rest → s.answers = [] →
    step s = .fault .channelUnanswered

/-- No command and no command word is refused at IDLE, whatever error an earlier command left (R151, R160). A CONVERT or
PRINT_IMAGE before the host has written IMG_W and IMG_H, to which R38, R140 and U12 give no move, runs by the model's own
choice (log 6). -/
def Obligations.EveryWordHasANextState : Prop :=
  ∀ s : State, s.pos = .idle →
    (∀ i, ∃ t, exec i s = .next t) ∧
    (∀ w rest, s.inbox = .command w :: rest → ∃ t, step s = .next t)

/-! ### CONVERT -/

/-- CONVERT's checks, in order: height, width field, then the advisory on the path that proceeds (R79); no write call in
any case (R92). Where the host has not written IMG_W or IMG_H, their values are the model's own (log 6). -/
def Obligations.ConvertChecksInOrder : Prop :=
  ∀ s : State, s.pos = .idle →
    (255 < s.imgH.toNat → exec .convert s = .next { s with err := .imageTooTall }) ∧
    (s.imgH.toNat ≤ 255 → 2016 < s.imgW.toNat → exec .convert s = .next { s with err := .widthFieldOverflow }) ∧
    (s.imgH.toNat ≤ 255 → s.imgW.toNat ≤ 2016 →
      ∃ t, exec .convert s = .next t ∧ t.err = .none ∧ t.pos = .idle ∧ t.bvalid = true ∧ t.chan = s.chan ∧
        (512 < s.imgW.toNat → t.adv = true ∧ t.advlog = s.advlog ++ [.wideImage s.imgW]) ∧
        (s.imgW.toNat ≤ 512 → t.adv = false ∧ t.advlog = s.advlog))

/-- The border of each row is split between left and right, the left getting the floor half, and the padded width is
the image width plus the border; padding bits are 0 (R80, R81). -/
def Obligations.ConvertSplitsPadding : Prop :=
  ∀ (s : State) (b left : Nat), s.pos = .idle → s.imgH.toNat ≤ 255 → s.imgW.toNat ≤ 2016 →
    b = (32 - s.imgW.toNat % 32) % 32 → left = b / 2 →
      ∃ t, exec .convert s = .next t ∧ b ≤ 31 ∧
        t.pw.toNat = s.imgW.toNat + left + (b - left) ∧ t.pw.toNat = s.imgW.toNat + b ∧
        ∀ y, y < s.imgH.toNat →
          (∀ c, c < left → bitAt t (y * t.pw.toNat + c) = false) ∧
          (∀ c, c < b - left → bitAt t (y * t.pw.toNat + left + s.imgW.toNat + c) = false)

/-- The laws of the padded width (R82), of the width CONVERT leaves in PW. -/
def Obligations.PaddedWidthLaws : Prop :=
  ∀ s t : State, exec .convert s = .next t → t.err = .none →
    t.pw.toNat % 32 = 0 ∧ s.imgW.toNat ≤ t.pw.toNat ∧ t.pw.toNat - s.imgW.toNat < 32 ∧
    (t.pw = s.imgW ↔ s.imgW.toNat % 32 = 0) ∧ t.pw.toNat ≤ 2016 ∧ t.pw.toNat / 8 ≤ 252 ∧ t.ph.toNat = s.imgH.toNat

/-- The whole bitstream of a successful CONVERT: padded column c of row y is padding, 0, outside the image, and inside
it the bit of pixel number k = y * W + x (R46, R84, R86, R87, R88, R89); bits past it are not written. -/
def Obligations.ConvertEmitsDitheredRows : Prop :=
  ∀ (s : State) (w h b : Nat), s.pos = .idle → w = s.imgW.toNat → h = s.imgH.toNat → h ≤ 255 → w ≤ 2016 →
    b = (32 - w % 32) % 32 →
      ∃ t, exec .convert s = .next t ∧ t.pw.toNat = w + b ∧ t.ph.toNat = h ∧ t.bvalid = true ∧ t.err = .none ∧
        (w + b) * h ≤ t.bitBuf.length ∧
        (∀ y c, y < h → c < w + b →
          bitAt t (y * (w + b) + c) =
            if c < b / 2 ∨ b / 2 + w ≤ c then false
            else ruleBit (pixelAt s.image (c - b / 2) y) (y * w + (c - b / 2))) ∧
        (∀ i, (w + b) * h ≤ i → bitAt t i = bitAt s i)

/-- SWITCH after a successful CONVERT has toggled once for every image pixel, from P_SWITCH_INIT, whatever the pixels
are and whatever SWITCH held before (R85, R88). -/
def Obligations.SwitchTogglesOncePerPixel : Prop :=
  ∀ s t : State, exec .convert s = .next t → t.err = .none →
    t.switch = (Config.params.switchInit ^^ decide (s.imgW.toNat * s.imgH.toNat % 2 = 1))

/-- CONVERT's frame and what it depends on: it writes SWITCH, BitBuf, PW, PH, BVALID, ADV, ADVLOG and ERR only, and
what it writes is the same in any two states that present the same image (R78). -/
def Obligations.ConvertReadsAndWritesOnly : Prop :=
  (∀ s t : State, exec .convert s = .next t →
    HostSideSame s t ∧ t.align = s.align ∧ t.savedAlign = s.savedAlign ∧ t.packer = s.packer ∧ t.chan = s.chan ∧
      t.pos = s.pos ∧ t.answers = s.answers ∧
      (∀ i, t.pw.toNat * t.ph.toNat ≤ i → bitAt t i = bitAt s i) ∧
      (t.err ≠ .none → ∀ i, bitAt t i = bitAt s i)) ∧
  (∀ s₁ s₂ : State, s₁.pos = .idle → s₂.pos = .idle → SameImage s₁ s₂ →
    ∃ t₁ t₂ events, exec .convert s₁ = .next t₁ ∧ exec .convert s₂ = .next t₂ ∧ t₁.err = t₂.err ∧
      t₁.advlog = s₁.advlog ++ events ∧ t₂.advlog = s₂.advlog ++ events ∧
      (t₁.err = .none → t₁.switch = t₂.switch ∧ t₁.pw = t₂.pw ∧ t₁.ph = t₂.ph ∧ t₁.adv = t₂.adv ∧
        t₁.bvalid = t₂.bvalid ∧ ∀ i, i < t₁.pw.toNat * t₁.ph.toNat → bitAt t₁ i = bitAt t₂ i))

/-- A uniform midtone area is a checkerboard for odd widths and vertical stripes for even ones (R90), with
P_SWITCH_INIT = 0 as the machine has it (log 2). -/
def Obligations.MidtoneAreaPattern : Prop :=
  ∀ s : State, s.pos = .idle → s.imgH.toNat ≤ 255 → s.imgW.toNat ≤ 2016 →
    (∀ x y, x < s.imgW.toNat → y < s.imgH.toNat →
      256 ≤ luminance (pixelAt s.image x y) ∧ luminance (pixelAt s.image x y) ≤ 510) →
    ∃ t, exec .convert s = .next t ∧ ∀ x y, x < s.imgW.toNat → y < s.imgH.toNat →
      bitAt t (y * t.pw.toNat + leftPad s.imgW.toNat + x) =
        if s.imgW.toNat % 2 = 1 then decide ((x + y) % 2 = 0) else decide (x % 2 = 0)

/-! ### ENCODE -/

/-- ENCODE without an unconsumed bitstream makes no write call and changes nothing but ERR, to code 3 (R97). -/
def Obligations.EncodeWithoutBitstream : Prop :=
  ∀ s : State, s.pos = .idle → s.bvalid = false →
    exec .encode s = .next { s with err := .noBitstream } ∧ ErrCode.noBitstream.code = 3

/-- ENCODE with every call accepted: the calls of a raster print in order, with the center command first whatever ALIGN
holds, each recorded as accepted; the bitstream is consumed and ERR is 0 (R99, R105). -/
def Obligations.EncodeSendsRasterCalls : Prop :=
  ∀ (s : State) (more : List Answer), s.pos = .idle → s.bvalid = true →
    s.answers = List.replicate (rasterCalls s).length .accept ++ more →
      exec .encode s = .next { s with
        savedAlign := s.align, bvalid := false, packer := ⟨[], []⟩, err := .none, answers := more,
        chan := s.chan ++ (rasterCalls s).map accepted }

/-- ENCODE ends at the first call the channel fails, with TransportError and no further call; the failed call delivered
a prefix (R104, R48). -/
def Obligations.EncodeStopsAtFirstFail : Prop :=
  ∀ (s : State) (k j : Nat) (more : List Answer) (hk : k < (rasterCalls s).length), s.pos = .idle → s.bvalid = true →
    s.answers = List.replicate k .accept ++ .fail j :: more →
      exec .encode s = .next { s with
        savedAlign := s.align, bvalid := false, packer := ⟨[], []⟩, err := .transportError, answers := more,
        chan := s.chan ++ ((rasterCalls s).take k).map accepted ++
          [⟨(rasterCalls s)[k], some (.failed (min j (rasterCalls s)[k].length))⟩] } ∧
      ErrCode.transportError.code = 4

/-- ENCODE whose answers run out waits: the calls so far stand in CHAN, the last one unanswered, ERR is not yet written,
and there is no step (R47, R55, R174; logs 3, 12, 17). -/
def Obligations.EncodeWaitsForAnswer : Prop :=
  ∀ (s : State) (k : Nat) (hk : k < (rasterCalls s).length), s.pos = .idle → s.bvalid = true →
    s.answers = List.replicate k .accept →
      ∃ t, exec .encode s = .next t ∧
        t.chan = s.chan ++ ((rasterCalls s).take k).map accepted ++ [⟨(rasterCalls s)[k], none⟩] ∧
        t.pos ≠ .idle ∧ t.answers = [] ∧ t.err = s.err ∧ t.align = s.align ∧ t.savedAlign = s.align ∧
        t.bvalid = false ∧ step t = .fault .channelUnanswered

/-- A raster print that ends without error puts exactly this byte string on the channel: center command, marker, header,
body, command of the saved alignment (R65). -/
def Obligations.RasterPrintByteStream : Prop :=
  ∀ (i : Instr) (s t : State), i = .encode ∨ i = .printImage → exec i s = .next t → t.pos = .idle → t.err = .none →
    protocolBytes t = protocolBytes s ++ Config.params.alignCmd .center ++ Config.params.marker ++ header t ++
      (List.range (bodyBytes t)).map (bodyByte t) ++ Config.params.alignCmd t.savedAlign ∧
    t.savedAlign = s.align

/-- ENCODE copies ALIGN into SAVED_ALIGN and clears BVALID however it ends; a second ENCODE ends with NoBitstream
(R98). -/
def Obligations.EncodeConsumesBitstream : Prop :=
  ∀ s t : State, s.bvalid = true → exec .encode s = .next t →
    t.savedAlign = s.align ∧ t.bvalid = false ∧
      (t.pos = .idle → exec .encode t = .next { t with err := .noBitstream })

/-- ENCODE's frame: besides SAVED_ALIGN, BVALID, the packer, CHAN, ERR and its position, nothing changes; CHAN keeps its
earlier calls; only answers are consumed (R107). -/
def Obligations.EncodeFrame : Prop :=
  ∀ s t : State, exec .encode s = .next t →
    HostSideSame s t ∧ t.align = s.align ∧ t.adv = s.adv ∧ t.pw = s.pw ∧ t.ph = s.ph ∧ t.switch = s.switch ∧
      t.advlog = s.advlog ∧ (∀ i, bitAt t i = bitAt s i) ∧ t.bvalid = false ∧ s.chan <+: t.chan ∧
      t.answers <:+ s.answers ∧ (t.pos ≠ .idle → t.err = s.err) ∧
      (s.bvalid = false → t.savedAlign = s.savedAlign ∧ t.packer = s.packer ∧ t.chan = s.chan)

/-- The packer is MSB-first: eight bits entering an empty packer leave one byte whose bit 7 - t is bit t of the eight
(R40). -/
def Obligations.PackerIsMsbFirst : Prop :=
  ∀ bits : List Bool, bits.length = 8 →
    ∃ v : Byte, bits.foldl Packer.pushBit ⟨[], []⟩ = ⟨[], [v]⟩ ∧ ∀ t, t < 8 → v.getLsbD (7 - t) = bits.getD t false

/-- Where PW and PH are as a session leaves them, the one-byte header fields are exact (R67, R68). -/
def Obligations.HeaderCountsExact : Prop :=
  ∀ s : State, Inv s → ∃ wb ph : Byte,
    headerBytes s = [wb, 0, ph, 0] ∧ 8 * wb.toNat = s.pw.toNat ∧ wb.toNat ≤ 252 ∧ ph = s.ph

/-! ### PRINT_IMAGE -/

/-- PRINT_IMAGE whose CONVERT fails ends with that error and changes nothing else: an earlier bitstream stays
(R110, R111). -/
def Obligations.PrintImageOfBadSize : Prop :=
  ∀ s : State, s.pos = .idle →
    (255 < s.imgH.toNat → exec .printImage s = .next { s with err := .imageTooTall }) ∧
    (s.imgH.toNat ≤ 255 → 2016 < s.imgW.toNat → exec .printImage s = .next { s with err := .widthFieldOverflow })

/-- PRINT_IMAGE is CONVERT, then, unless that failed, ENCODE; ERR is written once, at the end (R23, R110; log 10). -/
def Obligations.PrintImageIsConvertThenEncode : Prop :=
  ∀ s t : State, exec .convert s = .next t →
    (t.err = .none → exec .printImage s = exec .encode { t with err := s.err }) ∧
    (t.err ≠ .none → exec .printImage s = .next t)

/-- A PRINT_IMAGE whose calls are all accepted ends without error, with 4 + PW * PH / 32 calls, each body call of 4
bytes, and as many bytes as R106 counts (R102, R106, R110). -/
def Obligations.PrintImageCallsAndBytes : Prop :=
  ∀ (s : State) (pw : Nat) (more : List Answer), s.pos = .idle → s.imgH.toNat ≤ 255 → s.imgW.toNat ≤ 2016 →
    pw = s.imgW.toNat + (32 - s.imgW.toNat % 32) % 32 →
    s.answers = List.replicate (4 + pw * s.imgH.toNat / 32) .accept ++ more →
      ∃ t body, exec .printImage s = .next t ∧ t.err = .none ∧ t.pos = .idle ∧ t.bvalid = false ∧
        t.align = s.align ∧ t.answers = more ∧ t.pw.toNat = pw ∧ t.ph.toNat = s.imgH.toNat ∧
        t.chan = s.chan ++ ([Config.params.alignCmd .center, Config.params.marker, header t] ++ body ++
          [Config.params.alignCmd s.align]).map accepted ∧
        body.length = pw * s.imgH.toNat / 32 ∧ (∀ c ∈ body, c.length = 4) ∧
        body.flatten = (List.range (pw / 8 * s.imgH.toNat)).map (bodyByte t)

/-- An empty image prints a header and no body: four calls (R93, R109). -/
def Obligations.EmptyImagePrintsHeaderOnly : Prop :=
  ∀ (s : State) (pw : Nat) (more : List Answer), s.pos = .idle → s.imgH.toNat ≤ 255 → s.imgW.toNat ≤ 2016 →
    s.imgW = 0 ∨ s.imgH = 0 → pw = s.imgW.toNat + (32 - s.imgW.toNat % 32) % 32 →
    s.answers = List.replicate 4 .accept ++ more →
      ∃ t, exec .printImage s = .next t ∧ t.err = .none ∧ t.answers = more ∧
        t.chan = s.chan ++ [accepted (Config.params.alignCmd .center), accepted Config.params.marker,
          accepted [BitVec.ofNat 8 (pw / 8), 0, BitVec.ofNat 8 s.imgH.toNat, 0],
          accepted (Config.params.alignCmd s.align)]

/-- What a PRINT_IMAGE sends, call by call, depends on the image and ALIGN alone (R115): any other register may differ
between two states and the calls, the position and the result are the same under the same answers. -/
def Obligations.PrintDependsOnImageAndAlign : Prop :=
  ∀ s₁ s₂ : State, s₁.pos = .idle → s₂.pos = .idle → SameImage s₁ s₂ → s₁.align = s₂.align →
    s₁.answers = s₂.answers →
      ∃ t₁ t₂ calls, exec .printImage s₁ = .next t₁ ∧ exec .printImage s₂ = .next t₂ ∧
        t₁.chan = s₁.chan ++ calls ∧ t₂.chan = s₂.chan ++ calls ∧ t₁.pos = t₂.pos ∧
        (t₁.pos = .idle → t₁.err = t₂.err)

/-- PRINT_IMAGE's frame: ALIGN, the descriptor and every bit past the new bitstream keep their values, CHAN keeps its
earlier calls, and SAVED_ALIGN and the packer change only where framing starts (R78, R107, R110). That ERR keeps its
value while PRINT_IMAGE waits is the model's reading of R23's "exactly once, when it ends", which R110's literal CONVERT
body does not show (log 10). -/
def Obligations.PrintImageFrame : Prop :=
  ∀ s t : State, exec .printImage s = .next t →
    HostSideSame s t ∧ t.align = s.align ∧ s.chan <+: t.chan ∧ t.answers <:+ s.answers ∧
      (∀ i, t.pw.toNat * t.ph.toNat ≤ i → bitAt t i = bitAt s i) ∧ (t.pos ≠ .idle → t.err = s.err) ∧
      (255 < s.imgH.toNat ∨ 2016 < s.imgW.toNat → t = { s with err := t.err }) ∧
      (s.imgH.toNat ≤ 255 → s.imgW.toNat ≤ 2016 →
        t.savedAlign = s.align ∧ t.bvalid = false ∧ ∃ u, exec .convert s = .next u ∧ t.adv = u.adv ∧
          t.advlog = u.advlog ∧ t.switch = u.switch ∧ t.pw = u.pw ∧ t.ph = u.ph ∧ t.bitBuf = u.bitBuf)

/-! ### SET_ALIGN -/

/-- SET_ALIGN: its word; an argument outside the vocabulary sends nothing and ends with code 5; otherwise one call of
`P_ALIGN_CMD(a)`, ALIGN written when it is accepted and only then, code 4 when it fails (R116). -/
def Obligations.SetAlignFollowsRule : Prop :=
  ErrCode.invalidStyleValue.code = 5 ∧ ErrCode.transportError.code = 4 ∧
  (∀ arg : BitVec 8, decode ((0x04 : BitVec 8) ++ arg) = .ok (.setAlign arg)) ∧
  ∀ (s : State) (arg : BitVec 8), s.pos = .idle →
    (2 < arg.toNat → exec (.setAlign arg) s = .next { s with err := .invalidStyleValue }) ∧
    (∀ a : Align, arg.toNat = (match a with | .left => 0 | .center => 1 | .right => 2) →
      (∀ more, s.answers = .accept :: more →
        exec (.setAlign arg) s = .next { s with
          align := a, err := .none, answers := more,
          chan := s.chan ++ [accepted (Config.params.alignCmd a)] }) ∧
      (∀ k more, s.answers = .fail k :: more →
        exec (.setAlign arg) s = .next { s with
          err := .transportError, answers := more,
          chan := s.chan ++ [⟨Config.params.alignCmd a, some (.failed (min k (Config.params.alignCmd a).length))⟩] }))

/-- SET_ALIGN's frame, for every argument and answer, and its wait for an answer that has not come (R116; log 3). -/
def Obligations.SetAlignFrame : Prop :=
  ∀ (s t : State) (arg : BitVec 8), exec (.setAlign arg) s = .next t →
    HostSideSame s t ∧ t.adv = s.adv ∧ t.bvalid = s.bvalid ∧ t.pw = s.pw ∧ t.ph = s.ph ∧ t.switch = s.switch ∧
      t.savedAlign = s.savedAlign ∧ t.packer = s.packer ∧ t.advlog = s.advlog ∧ (∀ i, bitAt t i = bitAt s i) ∧
      s.chan <+: t.chan ∧ t.answers <:+ s.answers ∧ (t.align = s.align ∨ t.err = .none ∧ t.pos = .idle) ∧
      (t.pos ≠ .idle → t.align = s.align ∧ t.err = s.err ∧ s.answers = [] ∧ arg.toNat ≤ 2)

/-- After SET_ALIGN CENTER, a SET_ALIGN outside the vocabulary sends nothing: the center command stands in CHAN once,
ERR is 5 and ALIGN is CENTER (R118). -/
def Obligations.BogusAlignAfterCenterSendsNothing : Prop :=
  ∀ (s : State) (w : Word) (more : List Answer), s.pos = .idle → w.toNat / 256 = 4 → 3 ≤ w.toNat % 256 →
    s.inbox = [.command 0x0401, .command w] → s.answers = .accept :: more →
      ∃ t u, step s = .next t ∧ step t = .next u ∧
        u.chan = s.chan ++ [accepted (Config.params.alignCmd .center)] ∧ u.err.code = 5 ∧ u.align = .center ∧
        u.pos = .idle

/-! ### Whole machine -/

/-- Answers that come late change nothing: a command that waited and then gets its answers ends as if they had been
there from the start (R13, R28, R174; log 3). -/
def Obligations.LateAnswersGiveTheSameRun : Prop :=
  ∀ (i : Instr) (s t : State) (a₁ a₂ : List Answer), exec i { s with answers := a₁ } = .next t → t.pos ≠ .idle →
    a₂ ≠ [] → step { t with answers := a₂ } = exec i { s with answers := a₁ ++ a₂ }

/-- Errors are precise: for codes 1, 2, 3, 5 and 6 nothing but ERR changes; for code 4 ALIGN is unchanged, BVALID is 0
unless the command was SET_ALIGN, and the calls before the failing one stay delivered (R144). A command that ends after
a wait ends with code 0 or 4, and code 4 leaves ALIGN, BVALID and the calls so far as they were. -/
def Obligations.ErrorsArePrecise : Prop :=
  (∀ (s t : State) (w : Word) (rest : List HostAction), s.pos = .idle → s.inbox = .command w :: rest →
    step s = .next t → t.pos = .idle →
      (t.err.code ≠ 0 → t.err.code ≠ 4 → t = { s with inbox := rest, err := t.err }) ∧
      (t.err.code = 4 → t.align = s.align ∧ (w.toNat / 256 ≠ 4 → t.bvalid = false) ∧
        ∃ (calls : List (List Byte)) (bytes : List Byte) (k : Nat),
          t.chan = s.chan ++ calls.map accepted ++ [⟨bytes, some (.failed k)⟩] ∧ k ≤ bytes.length)) ∧
  (∀ (s t : State) (job : Job) (rest : List Part), s.pos = .waiting job rest → step s = .next t → t.pos = .idle →
    (t.err.code = 0 ∨ t.err.code = 4) ∧
      (t.err.code = 4 → t.align = s.align ∧ t.bvalid = s.bvalid ∧
        s.chan.map (·.bytes) <+: t.chan.map (·.bytes)))

/-- Only CONVERT, PRINT_IMAGE and reset change ADV, ADVLOG, PW, PH, SWITCH or BitBuf (R24, R27, R29, R32, R34). -/
def Obligations.OnlyConvertWritesBitstream : Prop :=
  ∀ s t : State, step s = .next t →
    t.adv ≠ s.adv ∨ t.advlog ≠ s.advlog ∨ t.pw ≠ s.pw ∨ t.ph ≠ s.ph ∨ t.switch ≠ s.switch ∨ t.bitBuf ≠ s.bitBuf →
      s.pos = .idle ∧ ∃ rest, s.inbox = .reset :: rest ∨
        ∃ w, s.inbox = .command w :: rest ∧ (decode w = .ok .convert ∨ decode w = .ok .printImage)

/-- ALIGN changes only by reset, or by a SET_ALIGN of the new value, at once or when its late answer comes (R22). -/
def Obligations.OnlySetAlignWritesAlign : Prop :=
  ∀ s t : State, step s = .next t → t.align ≠ s.align →
    (s.pos = .idle ∧ ∃ rest, s.inbox = .reset :: rest) ∨
    (∃ rest, s.pos = .waiting (.setAlign t.align) rest) ∨
    (s.pos = .idle ∧ ∃ w rest a, s.inbox = .command w :: rest ∧ decode w = .ok (.setAlign a) ∧
      a.toNat = (match t.align with | .left => 0 | .center => 1 | .right => 2))

/-- CHAN only grows: but for reset, every step keeps the calls already offered, in order (R33, R51, R54). -/
def Obligations.ChannelHistoryOnlyGrows : Prop :=
  ∀ s t : State, step s = .next t → ¬ (s.pos = .idle ∧ ∃ rest, s.inbox = .reset :: rest) →
    s.chan.map (·.bytes) <+: t.chan.map (·.bytes)

/-- Bytes that reached the device stay sent: but for reset, every step extends the delivered bytes (R43, R51). -/
def Obligations.DeliveredBytesStay : Prop :=
  ∀ s t : State, Inv s → step s = .next t → ¬ (s.pos = .idle ∧ ∃ rest, s.inbox = .reset :: rest) →
    deviceBytes s <+: deviceBytes t

/-- Every step keeps the invariant of the block's state. -/
def Obligations.StepKeepsBlockInvariant : Prop :=
  ∀ s t : State, Inv s → step s = .next t → Inv t

/-- The block's invariant holds after reset. -/
def Obligations.ResetMeetsBlockInvariant : Prop := Inv State.reset

/-- Every command ends when its write calls are answered, and 16069 answers are enough for any (R177). -/
def Obligations.CommandsEndWhenAnswered : Prop :=
  ∀ (i : Instr) (s : State), Inv s → s.pos = .idle → 16069 ≤ s.answers.length →
    ∃ t, exec i s = .next t ∧ t.pos = .idle

/-- The image directive writes IMG_W and IMG_H and makes the pixel port answer its pixels; it makes no write call and
changes no other block register (R76). -/
def Obligations.ImageDirectiveLoadsImage : Prop :=
  ∀ (s : State) (d : ImageDirective) (rest : List HostAction), d.wf = true → s.pos = .idle →
    s.inbox = directiveActions d ++ rest →
      ∃ t, Host.Core.run core 3 s = .next t ∧
        t = { s with
          imgW := t.imgW, imgWGiven := true, imgH := t.imgH, imgHGiven := true, image := t.image,
          inbox := rest } ∧
        (match d with
          | .listed w h pixels => t.imgW.toNat = w ∧ t.imgH.toNat = h ∧
              ∀ x y, x < w → y < h → pixels[y * w + x]? = some (pixelAt t.image x y)
          | .fill w h px => t.imgW.toNat = w ∧ t.imgH.toNat = h ∧
              ∀ x y, x < w → y < h → pixelAt t.image x y = px)
end

