-- ==== Sys2Proof/Laws/State.lean ====
section
/-! SUPPORT. What each update of the state leaves in each field, so that no later proof unfolds a record update. -/

namespace Sys2Proof.Machine

open Sys2Proof

/-! ### raise -/

@[simp] theorem raise_imgW (e : ErrCode) (s : State) : (raise e s).imgW = s.imgW := rfl
@[simp] theorem raise_imgWGiven (e : ErrCode) (s : State) : (raise e s).imgWGiven = s.imgWGiven := rfl
@[simp] theorem raise_imgH (e : ErrCode) (s : State) : (raise e s).imgH = s.imgH := rfl
@[simp] theorem raise_imgHGiven (e : ErrCode) (s : State) : (raise e s).imgHGiven = s.imgHGiven := rfl
@[simp] theorem raise_align (e : ErrCode) (s : State) : (raise e s).align = s.align := rfl
@[simp] theorem raise_err (e : ErrCode) (s : State) : (raise e s).err = e := rfl
@[simp] theorem raise_adv (e : ErrCode) (s : State) : (raise e s).adv = s.adv := rfl
@[simp] theorem raise_bvalid (e : ErrCode) (s : State) : (raise e s).bvalid = s.bvalid := rfl
@[simp] theorem raise_pw (e : ErrCode) (s : State) : (raise e s).pw = s.pw := rfl
@[simp] theorem raise_ph (e : ErrCode) (s : State) : (raise e s).ph = s.ph := rfl
@[simp] theorem raise_switch (e : ErrCode) (s : State) : (raise e s).switch = s.switch := rfl
@[simp] theorem raise_savedAlign (e : ErrCode) (s : State) : (raise e s).savedAlign = s.savedAlign := rfl
@[simp] theorem raise_packer (e : ErrCode) (s : State) : (raise e s).packer = s.packer := rfl
@[simp] theorem raise_bitBuf (e : ErrCode) (s : State) : (raise e s).bitBuf = s.bitBuf := rfl
@[simp] theorem raise_chan (e : ErrCode) (s : State) : (raise e s).chan = s.chan := rfl
@[simp] theorem raise_advlog (e : ErrCode) (s : State) : (raise e s).advlog = s.advlog := rfl
@[simp] theorem raise_pos (e : ErrCode) (s : State) : (raise e s).pos = .idle := rfl
@[simp] theorem raise_image (e : ErrCode) (s : State) : (raise e s).image = s.image := rfl
@[simp] theorem raise_inbox (e : ErrCode) (s : State) : (raise e s).inbox = s.inbox := rfl
@[simp] theorem raise_answers (e : ErrCode) (s : State) : (raise e s).answers = s.answers := rfl

/-! ### succeed -/

@[simp] theorem succeed_imgW (s : State) : (succeed s).imgW = s.imgW := rfl
@[simp] theorem succeed_imgWGiven (s : State) : (succeed s).imgWGiven = s.imgWGiven := rfl
@[simp] theorem succeed_imgH (s : State) : (succeed s).imgH = s.imgH := rfl
@[simp] theorem succeed_imgHGiven (s : State) : (succeed s).imgHGiven = s.imgHGiven := rfl
@[simp] theorem succeed_align (s : State) : (succeed s).align = s.align := rfl
@[simp] theorem succeed_err (s : State) : (succeed s).err = .none := rfl
@[simp] theorem succeed_adv (s : State) : (succeed s).adv = s.adv := rfl
@[simp] theorem succeed_bvalid (s : State) : (succeed s).bvalid = s.bvalid := rfl
@[simp] theorem succeed_pw (s : State) : (succeed s).pw = s.pw := rfl
@[simp] theorem succeed_ph (s : State) : (succeed s).ph = s.ph := rfl
@[simp] theorem succeed_switch (s : State) : (succeed s).switch = s.switch := rfl
@[simp] theorem succeed_savedAlign (s : State) : (succeed s).savedAlign = s.savedAlign := rfl
@[simp] theorem succeed_packer (s : State) : (succeed s).packer = s.packer := rfl
@[simp] theorem succeed_bitBuf (s : State) : (succeed s).bitBuf = s.bitBuf := rfl
@[simp] theorem succeed_chan (s : State) : (succeed s).chan = s.chan := rfl
@[simp] theorem succeed_advlog (s : State) : (succeed s).advlog = s.advlog := rfl
@[simp] theorem succeed_pos (s : State) : (succeed s).pos = .idle := rfl
@[simp] theorem succeed_image (s : State) : (succeed s).image = s.image := rfl
@[simp] theorem succeed_inbox (s : State) : (succeed s).inbox = s.inbox := rfl
@[simp] theorem succeed_answers (s : State) : (succeed s).answers = s.answers := rfl

/-! ### offer -/

@[simp] theorem offer_imgW (p : Params) (part : Part) (s : State) : (offer p part s).imgW = s.imgW := rfl
@[simp] theorem offer_imgWGiven (p : Params) (part : Part) (s : State) : (offer p part s).imgWGiven = s.imgWGiven := rfl
@[simp] theorem offer_imgH (p : Params) (part : Part) (s : State) : (offer p part s).imgH = s.imgH := rfl
@[simp] theorem offer_imgHGiven (p : Params) (part : Part) (s : State) : (offer p part s).imgHGiven = s.imgHGiven := rfl
@[simp] theorem offer_align (p : Params) (part : Part) (s : State) : (offer p part s).align = s.align := rfl
@[simp] theorem offer_err (p : Params) (part : Part) (s : State) : (offer p part s).err = s.err := rfl
@[simp] theorem offer_adv (p : Params) (part : Part) (s : State) : (offer p part s).adv = s.adv := rfl
@[simp] theorem offer_bvalid (p : Params) (part : Part) (s : State) : (offer p part s).bvalid = s.bvalid := rfl
@[simp] theorem offer_pw (p : Params) (part : Part) (s : State) : (offer p part s).pw = s.pw := rfl
@[simp] theorem offer_ph (p : Params) (part : Part) (s : State) : (offer p part s).ph = s.ph := rfl
@[simp] theorem offer_switch (p : Params) (part : Part) (s : State) : (offer p part s).switch = s.switch := rfl
@[simp] theorem offer_savedAlign (p : Params) (part : Part) (s : State) : (offer p part s).savedAlign = s.savedAlign := rfl
@[simp] theorem offer_packer (p : Params) (part : Part) (s : State) : (offer p part s).packer = partPacker s part := rfl
@[simp] theorem offer_bitBuf (p : Params) (part : Part) (s : State) : (offer p part s).bitBuf = s.bitBuf := rfl
@[simp] theorem offer_chan (p : Params) (part : Part) (s : State) : (offer p part s).chan = s.chan ++ [⟨partBytes p s part, none⟩] := rfl
@[simp] theorem offer_advlog (p : Params) (part : Part) (s : State) : (offer p part s).advlog = s.advlog := rfl
@[simp] theorem offer_pos (p : Params) (part : Part) (s : State) : (offer p part s).pos = s.pos := rfl
@[simp] theorem offer_image (p : Params) (part : Part) (s : State) : (offer p part s).image = s.image := rfl
@[simp] theorem offer_inbox (p : Params) (part : Part) (s : State) : (offer p part s).inbox = s.inbox := rfl
@[simp] theorem offer_answers (p : Params) (part : Part) (s : State) : (offer p part s).answers = s.answers := rfl

/-! ### answered -/

@[simp] theorem answered_imgW (job : Job) (a : Answer) (more : List Answer) (s : State) : (answered job a more s).imgW = s.imgW := rfl
@[simp] theorem answered_imgWGiven (job : Job) (a : Answer) (more : List Answer) (s : State) : (answered job a more s).imgWGiven = s.imgWGiven := rfl
@[simp] theorem answered_imgH (job : Job) (a : Answer) (more : List Answer) (s : State) : (answered job a more s).imgH = s.imgH := rfl
@[simp] theorem answered_imgHGiven (job : Job) (a : Answer) (more : List Answer) (s : State) : (answered job a more s).imgHGiven = s.imgHGiven := rfl
@[simp] theorem answered_align (job : Job) (a : Answer) (more : List Answer) (s : State) : (answered job a more s).align = s.align := rfl
@[simp] theorem answered_err (job : Job) (a : Answer) (more : List Answer) (s : State) : (answered job a more s).err = s.err := rfl
@[simp] theorem answered_adv (job : Job) (a : Answer) (more : List Answer) (s : State) : (answered job a more s).adv = s.adv := rfl
@[simp] theorem answered_bvalid (job : Job) (a : Answer) (more : List Answer) (s : State) : (answered job a more s).bvalid = s.bvalid := rfl
@[simp] theorem answered_pw (job : Job) (a : Answer) (more : List Answer) (s : State) : (answered job a more s).pw = s.pw := rfl
@[simp] theorem answered_ph (job : Job) (a : Answer) (more : List Answer) (s : State) : (answered job a more s).ph = s.ph := rfl
@[simp] theorem answered_switch (job : Job) (a : Answer) (more : List Answer) (s : State) : (answered job a more s).switch = s.switch := rfl
@[simp] theorem answered_savedAlign (job : Job) (a : Answer) (more : List Answer) (s : State) : (answered job a more s).savedAlign = s.savedAlign := rfl
@[simp] theorem answered_packer (job : Job) (a : Answer) (more : List Answer) (s : State) : (answered job a more s).packer = answeredPacker job s.packer := rfl
@[simp] theorem answered_bitBuf (job : Job) (a : Answer) (more : List Answer) (s : State) : (answered job a more s).bitBuf = s.bitBuf := rfl
@[simp] theorem answered_chan (job : Job) (a : Answer) (more : List Answer) (s : State) : (answered job a more s).chan = settleLast a s.chan := rfl
@[simp] theorem answered_advlog (job : Job) (a : Answer) (more : List Answer) (s : State) : (answered job a more s).advlog = s.advlog := rfl
@[simp] theorem answered_pos (job : Job) (a : Answer) (more : List Answer) (s : State) : (answered job a more s).pos = s.pos := rfl
@[simp] theorem answered_image (job : Job) (a : Answer) (more : List Answer) (s : State) : (answered job a more s).image = s.image := rfl
@[simp] theorem answered_inbox (job : Job) (a : Answer) (more : List Answer) (s : State) : (answered job a more s).inbox = s.inbox := rfl
@[simp] theorem answered_answers (job : Job) (a : Answer) (more : List Answer) (s : State) : (answered job a more s).answers = more := rfl

/-! ### beginRaster -/

@[simp] theorem beginRaster_imgW (s : State) : (beginRaster s).imgW = s.imgW := rfl
@[simp] theorem beginRaster_imgWGiven (s : State) : (beginRaster s).imgWGiven = s.imgWGiven := rfl
@[simp] theorem beginRaster_imgH (s : State) : (beginRaster s).imgH = s.imgH := rfl
@[simp] theorem beginRaster_imgHGiven (s : State) : (beginRaster s).imgHGiven = s.imgHGiven := rfl
@[simp] theorem beginRaster_align (s : State) : (beginRaster s).align = s.align := rfl
@[simp] theorem beginRaster_err (s : State) : (beginRaster s).err = s.err := rfl
@[simp] theorem beginRaster_adv (s : State) : (beginRaster s).adv = s.adv := rfl
@[simp] theorem beginRaster_bvalid (s : State) : (beginRaster s).bvalid = false := rfl
@[simp] theorem beginRaster_pw (s : State) : (beginRaster s).pw = s.pw := rfl
@[simp] theorem beginRaster_ph (s : State) : (beginRaster s).ph = s.ph := rfl
@[simp] theorem beginRaster_switch (s : State) : (beginRaster s).switch = s.switch := rfl
@[simp] theorem beginRaster_savedAlign (s : State) : (beginRaster s).savedAlign = s.align := rfl
@[simp] theorem beginRaster_packer (s : State) : (beginRaster s).packer = .empty := rfl
@[simp] theorem beginRaster_bitBuf (s : State) : (beginRaster s).bitBuf = s.bitBuf := rfl
@[simp] theorem beginRaster_chan (s : State) : (beginRaster s).chan = s.chan := rfl
@[simp] theorem beginRaster_advlog (s : State) : (beginRaster s).advlog = s.advlog := rfl
@[simp] theorem beginRaster_pos (s : State) : (beginRaster s).pos = s.pos := rfl
@[simp] theorem beginRaster_image (s : State) : (beginRaster s).image = s.image := rfl
@[simp] theorem beginRaster_inbox (s : State) : (beginRaster s).inbox = s.inbox := rfl
@[simp] theorem beginRaster_answers (s : State) : (beginRaster s).answers = s.answers := rfl

/-! ### convertImage -/

@[simp] theorem convertImage_imgW (p : Params) (s : State) : (convertImage p s).imgW = s.imgW := rfl
@[simp] theorem convertImage_imgWGiven (p : Params) (s : State) : (convertImage p s).imgWGiven = s.imgWGiven := rfl
@[simp] theorem convertImage_imgH (p : Params) (s : State) : (convertImage p s).imgH = s.imgH := rfl
@[simp] theorem convertImage_imgHGiven (p : Params) (s : State) : (convertImage p s).imgHGiven = s.imgHGiven := rfl
@[simp] theorem convertImage_align (p : Params) (s : State) : (convertImage p s).align = s.align := rfl
@[simp] theorem convertImage_err (p : Params) (s : State) : (convertImage p s).err = s.err := rfl
@[simp] theorem convertImage_adv (p : Params) (s : State) : (convertImage p s).adv = advOf s.imgW.toNat := rfl
@[simp] theorem convertImage_bvalid (p : Params) (s : State) : (convertImage p s).bvalid = true := rfl
@[simp] theorem convertImage_pw (p : Params) (s : State) : (convertImage p s).pw = BitVec.ofNat 16 (paddedWidth s.imgW.toNat) := rfl
@[simp] theorem convertImage_ph (p : Params) (s : State) : (convertImage p s).ph = BitVec.ofNat 8 s.imgH.toNat := rfl
@[simp] theorem convertImage_switch (p : Params) (s : State) : (convertImage p s).switch = (emitRows (leftPad s.imgW.toNat) (rightPad s.imgW.toNat)
      (imageRows s.image s.imgW.toNat s.imgH.toNat) p.switchInit).2 := rfl
@[simp] theorem convertImage_savedAlign (p : Params) (s : State) : (convertImage p s).savedAlign = s.savedAlign := rfl
@[simp] theorem convertImage_packer (p : Params) (s : State) : (convertImage p s).packer = s.packer := rfl
@[simp] theorem convertImage_bitBuf (p : Params) (s : State) : (convertImage p s).bitBuf = Memory.load s.bitBuf (emitRows (leftPad s.imgW.toNat) (rightPad s.imgW.toNat)
      (imageRows s.image s.imgW.toNat s.imgH.toNat) p.switchInit).1 := rfl
@[simp] theorem convertImage_chan (p : Params) (s : State) : (convertImage p s).chan = s.chan := rfl
@[simp] theorem convertImage_advlog (p : Params) (s : State) : (convertImage p s).advlog = s.advlog ++ adviceOf s.imgW := rfl
@[simp] theorem convertImage_pos (p : Params) (s : State) : (convertImage p s).pos = s.pos := rfl
@[simp] theorem convertImage_image (p : Params) (s : State) : (convertImage p s).image = s.image := rfl
@[simp] theorem convertImage_inbox (p : Params) (s : State) : (convertImage p s).inbox = s.inbox := rfl
@[simp] theorem convertImage_answers (p : Params) (s : State) : (convertImage p s).answers = s.answers := rfl

/-! ### writeImgW -/

@[simp] theorem writeImgW_imgW (v : Word) (s : State) : (writeImgW v s).imgW = v := rfl
@[simp] theorem writeImgW_imgWGiven (v : Word) (s : State) : (writeImgW v s).imgWGiven = true := rfl
@[simp] theorem writeImgW_imgH (v : Word) (s : State) : (writeImgW v s).imgH = s.imgH := rfl
@[simp] theorem writeImgW_imgHGiven (v : Word) (s : State) : (writeImgW v s).imgHGiven = s.imgHGiven := rfl
@[simp] theorem writeImgW_align (v : Word) (s : State) : (writeImgW v s).align = s.align := rfl
@[simp] theorem writeImgW_err (v : Word) (s : State) : (writeImgW v s).err = s.err := rfl
@[simp] theorem writeImgW_adv (v : Word) (s : State) : (writeImgW v s).adv = s.adv := rfl
@[simp] theorem writeImgW_bvalid (v : Word) (s : State) : (writeImgW v s).bvalid = s.bvalid := rfl
@[simp] theorem writeImgW_pw (v : Word) (s : State) : (writeImgW v s).pw = s.pw := rfl
@[simp] theorem writeImgW_ph (v : Word) (s : State) : (writeImgW v s).ph = s.ph := rfl
@[simp] theorem writeImgW_switch (v : Word) (s : State) : (writeImgW v s).switch = s.switch := rfl
@[simp] theorem writeImgW_savedAlign (v : Word) (s : State) : (writeImgW v s).savedAlign = s.savedAlign := rfl
@[simp] theorem writeImgW_packer (v : Word) (s : State) : (writeImgW v s).packer = s.packer := rfl
@[simp] theorem writeImgW_bitBuf (v : Word) (s : State) : (writeImgW v s).bitBuf = s.bitBuf := rfl
@[simp] theorem writeImgW_chan (v : Word) (s : State) : (writeImgW v s).chan = s.chan := rfl
@[simp] theorem writeImgW_advlog (v : Word) (s : State) : (writeImgW v s).advlog = s.advlog := rfl
@[simp] theorem writeImgW_pos (v : Word) (s : State) : (writeImgW v s).pos = s.pos := rfl
@[simp] theorem writeImgW_image (v : Word) (s : State) : (writeImgW v s).image = s.image := rfl
@[simp] theorem writeImgW_inbox (v : Word) (s : State) : (writeImgW v s).inbox = s.inbox := rfl
@[simp] theorem writeImgW_answers (v : Word) (s : State) : (writeImgW v s).answers = s.answers := rfl

/-! ### writeImgH -/

@[simp] theorem writeImgH_imgW (v : Word) (s : State) : (writeImgH v s).imgW = s.imgW := rfl
@[simp] theorem writeImgH_imgWGiven (v : Word) (s : State) : (writeImgH v s).imgWGiven = s.imgWGiven := rfl
@[simp] theorem writeImgH_imgH (v : Word) (s : State) : (writeImgH v s).imgH = v := rfl
@[simp] theorem writeImgH_imgHGiven (v : Word) (s : State) : (writeImgH v s).imgHGiven = true := rfl
@[simp] theorem writeImgH_align (v : Word) (s : State) : (writeImgH v s).align = s.align := rfl
@[simp] theorem writeImgH_err (v : Word) (s : State) : (writeImgH v s).err = s.err := rfl
@[simp] theorem writeImgH_adv (v : Word) (s : State) : (writeImgH v s).adv = s.adv := rfl
@[simp] theorem writeImgH_bvalid (v : Word) (s : State) : (writeImgH v s).bvalid = s.bvalid := rfl
@[simp] theorem writeImgH_pw (v : Word) (s : State) : (writeImgH v s).pw = s.pw := rfl
@[simp] theorem writeImgH_ph (v : Word) (s : State) : (writeImgH v s).ph = s.ph := rfl
@[simp] theorem writeImgH_switch (v : Word) (s : State) : (writeImgH v s).switch = s.switch := rfl
@[simp] theorem writeImgH_savedAlign (v : Word) (s : State) : (writeImgH v s).savedAlign = s.savedAlign := rfl
@[simp] theorem writeImgH_packer (v : Word) (s : State) : (writeImgH v s).packer = s.packer := rfl
@[simp] theorem writeImgH_bitBuf (v : Word) (s : State) : (writeImgH v s).bitBuf = s.bitBuf := rfl
@[simp] theorem writeImgH_chan (v : Word) (s : State) : (writeImgH v s).chan = s.chan := rfl
@[simp] theorem writeImgH_advlog (v : Word) (s : State) : (writeImgH v s).advlog = s.advlog := rfl
@[simp] theorem writeImgH_pos (v : Word) (s : State) : (writeImgH v s).pos = s.pos := rfl
@[simp] theorem writeImgH_image (v : Word) (s : State) : (writeImgH v s).image = s.image := rfl
@[simp] theorem writeImgH_inbox (v : Word) (s : State) : (writeImgH v s).inbox = s.inbox := rfl
@[simp] theorem writeImgH_answers (v : Word) (s : State) : (writeImgH v s).answers = s.answers := rfl

/-! ### setImage -/

@[simp] theorem setImage_imgW (rows : List (List Pixel)) (s : State) : (setImage rows s).imgW = s.imgW := rfl
@[simp] theorem setImage_imgWGiven (rows : List (List Pixel)) (s : State) : (setImage rows s).imgWGiven = s.imgWGiven := rfl
@[simp] theorem setImage_imgH (rows : List (List Pixel)) (s : State) : (setImage rows s).imgH = s.imgH := rfl
@[simp] theorem setImage_imgHGiven (rows : List (List Pixel)) (s : State) : (setImage rows s).imgHGiven = s.imgHGiven := rfl
@[simp] theorem setImage_align (rows : List (List Pixel)) (s : State) : (setImage rows s).align = s.align := rfl
@[simp] theorem setImage_err (rows : List (List Pixel)) (s : State) : (setImage rows s).err = s.err := rfl
@[simp] theorem setImage_adv (rows : List (List Pixel)) (s : State) : (setImage rows s).adv = s.adv := rfl
@[simp] theorem setImage_bvalid (rows : List (List Pixel)) (s : State) : (setImage rows s).bvalid = s.bvalid := rfl
@[simp] theorem setImage_pw (rows : List (List Pixel)) (s : State) : (setImage rows s).pw = s.pw := rfl
@[simp] theorem setImage_ph (rows : List (List Pixel)) (s : State) : (setImage rows s).ph = s.ph := rfl
@[simp] theorem setImage_switch (rows : List (List Pixel)) (s : State) : (setImage rows s).switch = s.switch := rfl
@[simp] theorem setImage_savedAlign (rows : List (List Pixel)) (s : State) : (setImage rows s).savedAlign = s.savedAlign := rfl
@[simp] theorem setImage_packer (rows : List (List Pixel)) (s : State) : (setImage rows s).packer = s.packer := rfl
@[simp] theorem setImage_bitBuf (rows : List (List Pixel)) (s : State) : (setImage rows s).bitBuf = s.bitBuf := rfl
@[simp] theorem setImage_chan (rows : List (List Pixel)) (s : State) : (setImage rows s).chan = s.chan := rfl
@[simp] theorem setImage_advlog (rows : List (List Pixel)) (s : State) : (setImage rows s).advlog = s.advlog := rfl
@[simp] theorem setImage_pos (rows : List (List Pixel)) (s : State) : (setImage rows s).pos = s.pos := rfl
@[simp] theorem setImage_image (rows : List (List Pixel)) (s : State) : (setImage rows s).image = rows := rfl
@[simp] theorem setImage_inbox (rows : List (List Pixel)) (s : State) : (setImage rows s).inbox = s.inbox := rfl
@[simp] theorem setImage_answers (rows : List (List Pixel)) (s : State) : (setImage rows s).answers = s.answers := rfl

/-! ### resetBlock -/

@[simp] theorem resetBlock_imgW (s : State) : (resetBlock s).imgW = 0 := rfl
@[simp] theorem resetBlock_imgWGiven (s : State) : (resetBlock s).imgWGiven = false := rfl
@[simp] theorem resetBlock_imgH (s : State) : (resetBlock s).imgH = 0 := rfl
@[simp] theorem resetBlock_imgHGiven (s : State) : (resetBlock s).imgHGiven = false := rfl
@[simp] theorem resetBlock_align (s : State) : (resetBlock s).align = .left := rfl
@[simp] theorem resetBlock_err (s : State) : (resetBlock s).err = .none := rfl
@[simp] theorem resetBlock_adv (s : State) : (resetBlock s).adv = false := rfl
@[simp] theorem resetBlock_bvalid (s : State) : (resetBlock s).bvalid = false := rfl
@[simp] theorem resetBlock_pw (s : State) : (resetBlock s).pw = 0 := rfl
@[simp] theorem resetBlock_ph (s : State) : (resetBlock s).ph = 0 := rfl
@[simp] theorem resetBlock_switch (s : State) : (resetBlock s).switch = Config.params.switchInit := rfl
@[simp] theorem resetBlock_savedAlign (s : State) : (resetBlock s).savedAlign = .left := rfl
@[simp] theorem resetBlock_packer (s : State) : (resetBlock s).packer = .empty := rfl
@[simp] theorem resetBlock_bitBuf (s : State) : (resetBlock s).bitBuf = [] := rfl
@[simp] theorem resetBlock_chan (s : State) : (resetBlock s).chan = [] := rfl
@[simp] theorem resetBlock_advlog (s : State) : (resetBlock s).advlog = [] := rfl
@[simp] theorem resetBlock_pos (s : State) : (resetBlock s).pos = .idle := rfl
@[simp] theorem resetBlock_image (s : State) : (resetBlock s).image = s.image := rfl
@[simp] theorem resetBlock_inbox (s : State) : (resetBlock s).inbox = s.inbox := rfl
@[simp] theorem resetBlock_answers (s : State) : (resetBlock s).answers = s.answers := rfl

end Sys2Proof.Machine
end

