-- ==== Sys2Proof/Laws/Ops.lean ====
section
/-! SUPPORT. One lemma for everything each shared operation can do: the parameters, BitBuf, the packer, ending a
command, write calls and their answers. -/

namespace Sys2Proof.Machine

open Sys2Proof

/-! ### Parameters (R72, R73) -/

theorem params_wf : Config.params.wf = true := by
  have h : ∀ (q : Params) (b : Bool), ({ q with switchInit := b } : Params).wf = q.wf := fun _ _ => rfl
  unfold Config.params
  rw [h]
  split
  · assumption
  · decide

theorem marker_ne_nil : Config.params.marker ≠ [] := by
  have := params_wf
  simp only [Params.wf, Bool.and_eq_true, decide_eq_true_eq] at this
  exact this.1.1.1.1.1.1

theorem alignCmd_ne_nil (a : Align) : Config.params.alignCmd a ≠ [] := by
  have := params_wf
  simp only [Params.wf, Bool.and_eq_true, decide_eq_true_eq] at this
  obtain ⟨⟨⟨⟨⟨⟨-, hl⟩, hc⟩, hr⟩, -⟩, -⟩, -⟩ := this
  cases a <;> assumption

theorem alignCmd_injective (a b : Align) (h : Config.params.alignCmd a = Config.params.alignCmd b) : a = b := by
  have := params_wf
  simp only [Params.wf, Bool.and_eq_true, decide_eq_true_eq] at this
  obtain ⟨⟨⟨⟨⟨⟨-, -⟩, -⟩, -⟩, hlc⟩, hlr⟩, hcr⟩ := this
  cases a <;> cases b <;> first | rfl | (simp only [Params.alignCmd] at h; simp_all)

/-! ### BitBuf -/

theorem load_length (old emitted : List Bool) : (Memory.load old emitted).length = max emitted.length old.length := by
  simp only [Memory.load, List.length_append, List.length_drop]
  omega

/-- A written bit reads as written. -/
theorem read_load_written (old emitted : List Bool) (i : Nat) (h : i < emitted.length) :
    Memory.read (Memory.load old emitted) i = emitted[i] := by
  simp [Memory.read, Memory.load, h, List.getElem?_append_left h]

/-- A bit past the written ones reads as before. -/
theorem read_load_other (old emitted : List Bool) (i : Nat) (h : emitted.length ≤ i) :
    Memory.read (Memory.load old emitted) i = Memory.read old i := by
  simp only [Memory.read, Memory.load, List.getD_eq_getElem?_getD, List.getElem?_append_right h, List.getElem?_drop]
  congr 2
  omega

/-- Writing a bitstream that fits keeps the memory's form. -/
theorem load_wf (old emitted : List Bool) (ho : Memory.wf old = true) (h : emitted.length ≤ Config.bitBufCapacity) :
    Memory.wf (Memory.load old emitted) = true := by
  have ho := of_decide_eq_true ho
  refine decide_eq_true ?_
  rw [load_length]
  exact max_le h ho

theorem reset_memory_wf : Memory.wf State.reset.bitBuf = true := rfl

/-! ### The packer -/

/-- Eight bits entering an empty packer join its group as one byte. -/
theorem pushBits_eight (bits : List Bool) (group : List Byte) (h : bits.length = 8) :
    bits.foldl Packer.pushBit ⟨[], group⟩ = ⟨[], group ++ [byteOfBits bits]⟩ := by
  match bits, h with
  | [a, b, c, d, e, f, g, i], _ => simp [Packer.pushBit]

/-- Bits entering in whole bytes leave no byte under assembly. -/
theorem pushBits_bytes (bytes : List (List Bool)) (group : List Byte) (h : ∀ b ∈ bytes, b.length = 8) :
    bytes.flatten.foldl Packer.pushBit ⟨[], group⟩ = ⟨[], group ++ bytes.map byteOfBits⟩ := by
  induction bytes generalizing group with
  | nil => simp
  | cons b bs ih =>
    rw [List.flatten_cons, List.foldl_append, pushBits_eight b group (h b (by simp)),
      ih _ (fun c hc => h c (by simp [hc]))]
    simp

/-- The bits `8i .. 8i+7` for i below m are the bits below 8m, in order. -/
theorem range_map_bytes {α : Type} (f : Nat → α) (m : Nat) :
    (List.range (8 * m)).map f =
      ((List.range m).map fun i => (List.range 8).map fun t => f (8 * i + t)).flatten := by
  induction m with
  | zero => rfl
  | succ m ih =>
    rw [Nat.mul_succ, List.range_add, List.map_append, ih, List.range_succ (n := m), List.map_append,
      List.flatten_append]
    simp [Function.comp_def]

/-- The group of a packed body group, byte by byte: byte i of group g packs bits from `8 * (4g + i)` on. -/
theorem packGroup_empty (s : State) (g : Nat) (h : s.packer = .empty) :
    packGroup s g =
      ⟨[], (List.range (groupLen s g)).map fun i =>
        byteOfBits ((List.range 8).map fun t => bitAt s (8 * (4 * g + i) + t))⟩ := by
  rw [packGroup, groupBits, range_map_bytes, h, Packer.empty, pushBits_bytes]
  · simp [Function.comp_def, Config.group, Nat.mul_add, Nat.add_assoc]
  · simp

/-! ### Write calls -/

theorem settleLast_append (a : Answer) (cs : List WriteCall) (c : WriteCall) :
    settleLast a (cs ++ [c]) = cs ++ [⟨c.bytes, some (respond a c.bytes)⟩] := by
  induction cs with
  | nil => rfl
  | cons d ds ih =>
    cases ds with
    | nil => rfl
    | cons e es => simpa [settleLast] using ih

/-- A call's bytes depend on the packer, SAVED_ALIGN, PW, PH and BitBuf alone. -/
theorem partBytes_congr (p : Params) {s t : State} (part : Part) (hk : s.packer = t.packer)
    (ha : s.savedAlign = t.savedAlign) (hw : s.pw = t.pw) (hh : s.ph = t.ph) (hb : s.bitBuf = t.bitBuf) :
    partBytes p s part = partBytes p t part := by
  cases part <;>
    simp [partBytes, headerBytes, widthBytes, packGroup, groupBits, groupLen, bodyLen, bitAt, hk, ha, hw, hh, hb]

/-- The bytes of a call offered from an empty packer. -/
def callBytes (p : Params) (s : State) (part : Part) : List Byte := partBytes p { s with packer := .empty } part

/-- An accepted call. -/
def acceptedCall (bytes : List Byte) : WriteCall := ⟨bytes, some .accepted⟩

/-- Every answer list meets n calls in one of three ways: all accepted, one failed, or answers lacking. -/
theorem answers_cases (n : Nat) (answers : List Answer) :
    (∃ more, answers = List.replicate n .accept ++ more) ∨
    (∃ k j more, k < n ∧ answers = List.replicate k .accept ++ .fail j :: more) ∨
    (∃ k, k < n ∧ answers = List.replicate k .accept) := by
  induction n generalizing answers with
  | zero => exact .inl ⟨answers, rfl⟩
  | succ n ih =>
    match answers with
    | [] => exact .inr (.inr ⟨0, by omega, rfl⟩)
    | .fail j :: more => exact .inr (.inl ⟨0, j, more, by omega, rfl⟩)
    | .accept :: more =>
      obtain ⟨m, rfl⟩ | ⟨k, j, m, hk, rfl⟩ | ⟨k, hk, rfl⟩ := ih more
      · exact .inl ⟨m, rfl⟩
      · exact .inr (.inl ⟨k + 1, j, m, by omega, rfl⟩)
      · exact .inr (.inr ⟨k + 1, by omega, rfl⟩)

theorem await_unanswered (p : Params) (job : Job) (rest : List Part) (s : State) (h : s.answers = []) :
    await p job rest s = { s with pos := .waiting job rest } := by
  unfold await; simp [h]

theorem await_fail (p : Params) (job : Job) (rest : List Part) (s : State) (k : Nat) (more : List Answer)
    (h : s.answers = .fail k :: more) :
    await p job rest s = raise .transportError (answered job (.fail k) more s) := by
  unfold await; simp [h]

theorem await_accept_last (p : Params) (job : Job) (s : State) (more : List Answer)
    (h : s.answers = .accept :: more) :
    await p job [] s = complete job (answered job .accept more s) := by
  unfold await; simp [h]

theorem await_accept_next (p : Params) (job : Job) (part : Part) (rest : List Part) (s : State)
    (more : List Answer) (h : s.answers = .accept :: more) :
    await p job (part :: rest) s = await p job rest (offer p part (answered job .accept more s)) := by
  rw [await.eq_def]; simp [h]

/-- All calls accepted: the command completes. -/
theorem await_all_accepted (p : Params) (rest : List Part) (s : State) (pre : List WriteCall)
    (bytes : List Byte) (more : List Answer) (hc : s.chan = pre ++ [⟨bytes, none⟩])
    (ha : s.answers = List.replicate (rest.length + 1) .accept ++ more) :
    await p .raster rest s = complete .raster { s with
      answers := more, packer := .empty,
      chan := pre ++ (bytes :: rest.map (callBytes p s)).map acceptedCall } := by
  induction rest generalizing s pre bytes with
  | nil =>
    rw [await_accept_last p .raster s more (by simpa using ha)]
    simp [answered, answeredPacker, hc, settleLast_append, acceptedCall, respond]
  | cons part rest ih =>
    have ha' : s.answers = .accept :: (List.replicate (rest.length + 1) .accept ++ more) := by
      simpa [List.replicate_succ] using ha
    rw [await_accept_next p .raster part rest s _ ha',
      ih _ (pre ++ [acceptedCall bytes]) (callBytes p s part)]
    · have hb : callBytes p (offer p part (answered .raster .accept (List.replicate (rest.length + 1) .accept ++ more) s)) =
          callBytes p s := by
        funext q; exact partBytes_congr p q rfl rfl rfl rfl rfl
      rw [hb]
      simp [offer, answered, answeredPacker]
    · have hb : partBytes p (answered .raster .accept (List.replicate (rest.length + 1) .accept ++ more) s) part =
          callBytes p s part := partBytes_congr p part rfl rfl rfl rfl rfl
      simp [hb, hc, settleLast_append, acceptedCall, respond]
    · simp

/-- Call k fails after k accepted ones: the command ends there. -/
theorem await_one_failed (p : Params) (rest : List Part) (s : State) (pre : List WriteCall)
    (bytes : List Byte) (k j : Nat) (more : List Answer) (hk : k < (bytes :: rest.map (callBytes p s)).length)
    (hc : s.chan = pre ++ [⟨bytes, none⟩])
    (ha : s.answers = List.replicate k .accept ++ .fail j :: more) :
    await p .raster rest s = raise .transportError { s with
      answers := more, packer := .empty,
      chan := pre ++ ((bytes :: rest.map (callBytes p s)).take k).map acceptedCall ++
        [⟨(bytes :: rest.map (callBytes p s))[k],
          some (.failed (min j (bytes :: rest.map (callBytes p s))[k].length))⟩] } := by
  induction rest generalizing s pre bytes k with
  | nil =>
    obtain rfl : k = 0 := by simpa using hk
    rw [await_fail p .raster [] s j more (by simpa using ha)]
    simp [answered, answeredPacker, hc, settleLast_append, respond]
  | cons part rest ih =>
    cases k with
    | zero =>
      rw [await_fail p .raster _ s j more (by simpa using ha)]
      simp [answered, answeredPacker, hc, settleLast_append, respond]
    | succ k =>
      have ha' : s.answers = .accept :: (List.replicate k .accept ++ .fail j :: more) := by
        simpa [List.replicate_succ] using ha
      have hb : callBytes p (offer p part (answered .raster .accept (List.replicate k .accept ++ .fail j :: more) s)) =
          callBytes p s := by
        funext q; exact partBytes_congr p q rfl rfl rfl rfl rfl
      have hb' : partBytes p (answered .raster .accept (List.replicate k .accept ++ .fail j :: more) s) part =
          callBytes p s part := partBytes_congr p part rfl rfl rfl rfl rfl
      rw [await_accept_next p .raster part rest s _ ha',
        ih _ (pre ++ [acceptedCall bytes]) (callBytes p s part) k (by simpa using hk)]
      · simp only [hb]
        simp [offer, answered, answeredPacker]
      · simp [hb', hc, settleLast_append, acceptedCall, respond]
      · simp

/-- Answers run out after k accepted calls: the command waits for the answer to call k. -/
theorem await_lacking (p : Params) (rest : List Part) (s : State) (pre : List WriteCall)
    (bytes : List Byte) (k : Nat) (hk : k < (bytes :: rest.map (callBytes p s)).length)
    (hc : s.chan = pre ++ [⟨bytes, none⟩]) (ha : s.answers = List.replicate k .accept) :
    ∃ packer, await p .raster rest s = { s with
      answers := [], packer := packer, pos := .waiting .raster (rest.drop k),
      chan := pre ++ ((bytes :: rest.map (callBytes p s)).take k).map acceptedCall ++
        [⟨(bytes :: rest.map (callBytes p s))[k], none⟩] } ∧
      packer = match k with
        | 0 => s.packer
        | m + 1 => partPacker { s with packer := .empty } (rest.getD m .center) := by
  induction rest generalizing s pre bytes k with
  | nil =>
    obtain rfl : k = 0 := by simpa using hk
    have ha : s.answers = [] := ha
    refine ⟨_, ?_, rfl⟩
    rw [await_unanswered p .raster _ s ha]
    simp [hc, ← ha]
  | cons part rest ih =>
    cases k with
    | zero =>
      have ha : s.answers = [] := ha
      refine ⟨_, ?_, rfl⟩
      rw [await_unanswered p .raster _ s ha]
      simp [hc, ← ha]
    | succ k =>
      have ha' : s.answers = .accept :: List.replicate k .accept := by simpa [List.replicate_succ] using ha
      have hb : callBytes p (offer p part (answered .raster .accept (List.replicate k .accept) s)) = callBytes p s := by
        funext q; exact partBytes_congr p q rfl rfl rfl rfl rfl
      have hb' : partBytes p (answered .raster .accept (List.replicate k .accept) s) part = callBytes p s part :=
        partBytes_congr p part rfl rfl rfl rfl rfl
      obtain ⟨packer, h, hp⟩ := ih (offer p part (answered .raster .accept (List.replicate k .accept) s))
        (pre ++ [acceptedCall bytes]) (callBytes p s part) k (by simpa using hk)
        (by simp [hb', hc, settleLast_append, acceptedCall, respond]) (by simp)
      refine ⟨packer, ?_, ?_⟩
      · rw [await_accept_next p .raster part rest s _ ha', h]
        simp only [hb]
        simp [offer, answered, answeredPacker]
      · rw [hp]
        cases k with
        | zero => simp [offer]; cases part <;> rfl
        | succ m =>
          simp only [List.getD_cons_succ]
          cases h' : rest.getD m .center <;> rfl

/-- What no write call and no answer touches. -/
structure SameButCalls (s t : State) : Prop where
  imgW       : t.imgW = s.imgW
  imgWGiven  : t.imgWGiven = s.imgWGiven
  imgH       : t.imgH = s.imgH
  imgHGiven  : t.imgHGiven = s.imgHGiven
  adv        : t.adv = s.adv
  bvalid     : t.bvalid = s.bvalid
  pw         : t.pw = s.pw
  ph         : t.ph = s.ph
  switch     : t.switch = s.switch
  savedAlign : t.savedAlign = s.savedAlign
  bitBuf     : t.bitBuf = s.bitBuf
  advlog     : t.advlog = s.advlog
  image      : t.image = s.image
  inbox      : t.inbox = s.inbox

/-- Waiting for answers changes nothing but ALIGN, ERR, the packer, CHAN, the position and the answers left. -/
theorem await_same (p : Params) (job : Job) (rest : List Part) (s : State) :
    SameButCalls s (await p job rest s) := by
  induction rest generalizing s with
  | nil =>
    match h : s.answers with
    | [] => rw [await_unanswered _ _ _ _ h]; constructor <;> rfl
    | .fail k :: more => rw [await_fail _ _ _ _ _ _ h]; constructor <;> rfl
    | .accept :: more => rw [await_accept_last _ _ _ _ h]; cases job <;> constructor <;> rfl
  | cons part rest ih =>
    match h : s.answers with
    | [] => rw [await_unanswered _ _ _ _ h]; constructor <;> rfl
    | .fail k :: more => rw [await_fail _ _ _ _ _ _ h]; constructor <;> rfl
    | .accept :: more =>
      rw [await_accept_next _ _ _ _ _ _ h]
      have h' := ih (offer p part (answered job .accept more s))
      exact ⟨h'.1, h'.2, h'.3, h'.4, h'.5, h'.6, h'.7, h'.8, h'.9, h'.10, h'.11, h'.12, h'.13, h'.14⟩

/-! ### Commands and steps -/

theorem onIdle_idle (s : State) (run : State → Host.Outcome State Fault Refusal) (h : s.pos = .idle) :
    onIdle s run = run s := by simp [onIdle, h]

theorem onIdle_waiting (s : State) (run : State → Host.Outcome State Fault Refusal) {job : Job} {rest : List Part}
    (h : s.pos = .waiting job rest) : onIdle s run = .refused .commandWhileBusy := by simp [onIdle, h]

/-- A meaning that answers a next state started at IDLE. -/
theorem onIdle_next {s t : State} {run : State → State} (h : onIdle s (fun s => .next (run s)) = .next t) :
    s.pos = .idle ∧ t = run s := by
  unfold onIdle at h
  split at h
  · exact ⟨by assumption, by simpa using h.symm⟩
  · cases h

/-- The body of CONVERT either raises an error of its checks or converts. -/
theorem convertBody_cases (p : Params) (s : State) :
    (255 < s.imgH.toNat ∧ convertBody p s = .error .imageTooTall) ∨
    (s.imgH.toNat ≤ 255 ∧ 2016 < s.imgW.toNat ∧ convertBody p s = .error .widthFieldOverflow) ∨
    (s.imgH.toNat ≤ 255 ∧ s.imgW.toNat ≤ 2016 ∧ convertBody p s = .ok (convertImage p s)) := by
  unfold convertBody convertCheck Config.hMax Config.wFieldMax
  by_cases h1 : s.imgH.toNat > 255
  · simp [h1]
  · by_cases h2 : s.imgW.toNat > 2016
    · simp [h1, h2]; omega
    · simp [h1, h2]; omega

end Sys2Proof.Machine
end

