-- ==== Sys2Proof/Laws/Convert.lean ====
section
/-! SUPPORT. The padding laws, and the length, the final switch and every bit of the bitstream CONVERT emits. -/

namespace Sys2Proof.Machine

open Sys2Proof

/-! ### Padding (R80 to R82) -/

theorem border_eq (w : Nat) : border w = (32 - w % 32) % 32 := rfl

theorem leftPad_eq (w : Nat) : leftPad w = border w / 2 := rfl

theorem leftPad_add_rightPad (w : Nat) : leftPad w + rightPad w = border w := by
  simp only [leftPad, rightPad]; omega

theorem paddedWidth_eq (w : Nat) : paddedWidth w = w + border w := by
  have := leftPad_add_rightPad w
  simp only [paddedWidth]; omega

theorem paddedWidth_le (w : Nat) (h : w ≤ 2016) : paddedWidth w ≤ 2016 := by
  rw [paddedWidth_eq, border_eq]; omega

theorem paddedWidth_mod (w : Nat) : paddedWidth w % 32 = 0 := by
  rw [paddedWidth_eq, border_eq]; omega

/-! ### The image CONVERT reads -/

@[simp] theorem imageRow_length (image : List (List Pixel)) (w y : Nat) : (imageRow image w y).length = w := by
  simp [imageRow]

@[simp] theorem imageRows_length (image : List (List Pixel)) (w h : Nat) : (imageRows image w h).length = h := by
  simp [imageRows]

theorem imageRows_width (image : List (List Pixel)) (w h : Nat) : ∀ row ∈ imageRows image w h, row.length = w := by
  simp only [imageRows, List.mem_map]
  rintro _ ⟨y, -, rfl⟩
  exact imageRow_length image w y

/-- CONVERT reads the image through the descriptor and the pixel port alone. -/
theorem imageRows_congr {image image' : List (List Pixel)} {w h : Nat}
    (hp : ∀ x y, x < w → y < h → pixelAt image x y = pixelAt image' x y) :
    imageRows image w h = imageRows image' w h := by
  simp only [imageRows, imageRow]
  refine List.map_congr_left fun y hy => List.map_congr_left fun x hx => hp x y ?_ ?_ <;> simp_all

/-! ### One row -/

theorem ditherRow_length (row : List Pixel) (sw : Bool) : (ditherRow row sw).1.length = row.length := by
  induction row generalizing sw with
  | nil => rfl
  | cons px row ih => simp [ditherRow, ih]

theorem xor_not_odd (sw : Bool) (n : Nat) :
    ((!sw) ^^ decide (n % 2 = 1)) = (sw ^^ decide ((n + 1) % 2 = 1)) := by
  obtain h | h : n % 2 = 0 ∨ n % 2 = 1 := by omega
  · have h' : (n + 1) % 2 = 1 := by omega
    simp [h, h']
  · have h' : (n + 1) % 2 = 0 := by omega
    simp [h, h']

theorem xor_odd_add (sw : Bool) (m n : Nat) :
    ((sw ^^ decide (m % 2 = 1)) ^^ decide (n % 2 = 1)) = (sw ^^ decide ((m + n) % 2 = 1)) := by
  obtain hm | hm : m % 2 = 0 ∨ m % 2 = 1 := by omega
  all_goals obtain hn | hn : n % 2 = 0 ∨ n % 2 = 1 := by omega
  all_goals
    have : (m + n) % 2 = (m % 2 + n % 2) % 2 := Nat.add_mod m n 2
    simp [hm, hn, this]

/-- SWITCH has toggled once for every pixel. -/
theorem ditherRow_switch (row : List Pixel) (sw : Bool) :
    (ditherRow row sw).2 = (sw ^^ decide (row.length % 2 = 1)) := by
  induction row generalizing sw with
  | nil => simp [ditherRow]
  | cons px row ih => simp only [ditherRow, ih, List.length_cons, xor_not_odd]

/-- The bit of pixel x: its level, with the switch toggled x + 1 times. -/
theorem ditherRow_getElem (row : List Pixel) (sw : Bool) (x : Nat) (hx : x < row.length) :
    (ditherRow row sw).1[x]'(by rw [ditherRow_length]; exact hx) =
      pixbit (luminance row[x]) (sw ^^ decide ((x + 1) % 2 = 1)) := by
  induction row generalizing sw x with
  | nil => simp at hx
  | cons px row ih =>
    cases x with
    | zero => simp [ditherRow]
    | succ x =>
      simp only [ditherRow, List.getElem_cons_succ]
      rw [ih (!sw) x (by simpa using hx), xor_not_odd]

/-! ### All rows -/

theorem emitRows_length (lp rp w : Nat) (rows : List (List Pixel)) (sw : Bool) (h : ∀ row ∈ rows, row.length = w) :
    (emitRows lp rp rows sw).1.length = rows.length * (lp + w + rp) := by
  induction rows generalizing sw with
  | nil => simp [emitRows]
  | cons row rows ih =>
    simp only [emitRows, List.length_append, List.length_replicate, ditherRow_length, List.length_cons,
      ih _ (fun r hr => h r (by simp [hr])), h row (by simp)]
    rw [Nat.succ_mul]; omega

theorem emitRows_switch (lp rp w : Nat) (rows : List (List Pixel)) (sw : Bool) (h : ∀ row ∈ rows, row.length = w) :
    (emitRows lp rp rows sw).2 = (sw ^^ decide ((rows.length * w) % 2 = 1)) := by
  induction rows generalizing sw with
  | nil => simp [emitRows]
  | cons row rows ih =>
    simp only [emitRows, ih _ (fun r hr => h r (by simp [hr])), ditherRow_switch, h row (by simp), xor_odd_add,
      List.length_cons]
    rw [show w + rows.length * w = (rows.length + 1) * w by rw [Nat.succ_mul]; omega]

/-- One row's bits: padding, pixels, padding. -/
theorem paddedRow_getElem? (lp rp : Nat) (row : List Pixel) (sw : Bool) (c : Nat) (hc : c < lp + row.length + rp) :
    (List.replicate lp false ++ (ditherRow row sw).1 ++ List.replicate rp false)[c]? =
      some (if h : c < lp ∨ lp + row.length ≤ c then false
        else pixbit (luminance (row[c - lp]'(by omega))) (sw ^^ decide ((c - lp + 1) % 2 = 1))) := by
  by_cases h1 : c < lp
  · rw [List.append_assoc, List.getElem?_append_left (by simpa using h1)]
    simp [h1]
  · by_cases h2 : lp + row.length ≤ c
    · rw [List.getElem?_append_right (by simpa [ditherRow_length] using h2)]
      have : c - (lp + row.length) < rp := by omega
      simp [h2, ditherRow_length, this]
    · rw [List.append_assoc, List.getElem?_append_right (by simpa using h1),
        List.getElem?_append_left (by simp [ditherRow_length]; omega)]
      have hx : c - lp < row.length := by omega
      simp only [List.length_replicate]
      rw [List.getElem?_eq_getElem (by rw [ditherRow_length]; exact hx), ditherRow_getElem row sw (c - lp) hx]
      simp [h1, h2]

/-- Bit c of padded row y (R46, R87, R89): the switch has toggled once for every earlier pixel of the image. -/
theorem emitRows_getElem? (lp rp w : Nat) (rows : List (List Pixel)) (sw : Bool) (h : ∀ row ∈ rows, row.length = w)
    (y c : Nat) (hy : y < rows.length) (hc : c < lp + w + rp) :
    (emitRows lp rp rows sw).1[y * (lp + w + rp) + c]? =
      some (if c < lp ∨ lp + w ≤ c then false
        else pixbit (luminance ((rows[y]).getD (c - lp) default)) (sw ^^ decide ((y * w + (c - lp) + 1) % 2 = 1))) := by
  induction rows generalizing sw y with
  | nil => simp at hy
  | cons row rows ih =>
    have hw : row.length = w := h row (by simp)
    cases y with
    | zero =>
      simp only [emitRows, Nat.zero_mul, Nat.zero_add, List.getElem_cons_zero]
      rw [List.getElem?_append_left (by simp [ditherRow_length, hw]; omega),
        paddedRow_getElem? lp rp row sw c (by omega)]
      by_cases hp : c < lp ∨ lp + w ≤ c
      · simp [hp, hw]
      · have hx : c - lp < row.length := by omega
        simp [hp, hw, List.getD_eq_getElem?_getD, List.getElem?_eq_getElem hx]
    | succ y =>
      simp only [emitRows, List.getElem_cons_succ]
      have hlen : (List.replicate lp false ++ (ditherRow row sw).1 ++ List.replicate rp false).length = lp + w + rp := by
        simp [ditherRow_length, hw]; omega
      rw [List.getElem?_append_right (by rw [hlen, Nat.succ_mul]; omega), hlen,
        show (y + 1) * (lp + w + rp) + c - (lp + w + rp) = y * (lp + w + rp) + c by rw [Nat.succ_mul]; omega,
        ih _ (fun r hr => h r (by simp [hr])) y (by simpa using hy), ditherRow_switch, hw]
      rw [xor_odd_add, show w + (y * w + (c - lp) + 1) = (y + 1) * w + (c - lp) + 1 by rw [Nat.succ_mul]; omega]

end Sys2Proof.Machine
end

