-- ==== Sys2Proof/Laws/PerInstr.lean ====
section
/-! SUPPORT. Facts about every command as syntax, one lemma per constructor. -/

namespace Sys2Proof.Laws.TableWord

open Sys2Proof

/-- The match and mask of a command's row of spec/opcode_table.json (R64). -/
def row : Instr → Word × Word
  | .convert    => (0x0100, 0xFFFF)
  | .encode     => (0x0200, 0xFFFF)
  | .printImage => (0x0300, 0xFFFF)
  | .setAlign _ => (0x0400, 0xFF00)

/-- A command's encoded word has its row's match under its row's mask. -/
def Statement (i : Instr) : Prop := encode i &&& (row i).2 = (row i).1

theorem convert : Statement .convert := by
  show encode .convert &&& _ = _
  decide

theorem encode : Statement .encode := by
  show Sys2Proof.encode .encode &&& _ = _
  decide

theorem printImage : Statement .printImage := by
  show Sys2Proof.encode .printImage &&& _ = _
  decide

theorem setAlign (arg : BitVec 8) : Statement (.setAlign arg) := by
  show ((0x04 : BitVec 8) ++ arg) &&& ((0xFF : BitVec 8) ++ (0x00 : BitVec 8)) = (0x04 : BitVec 8) ++ (0x00 : BitVec 8)
  rw [BitVec.and_append]
  simp

end Sys2Proof.Laws.TableWord
end

