-- ==== Sys2Proof/Laws/Step.lean ====
section
/-! SUPPORT. What a command and a step can do, said once. -/

namespace Sys2Proof.Machine

open Sys2Proof

/-! ### Commands at IDLE -/

theorem exec_convert (s : State) (h : s.pos = .idle) : exec .convert s = .next (runConvert Config.params s) := by
  simp only [exec, execConvert, onIdle_idle s _ h]

theorem exec_encode (s : State) (h : s.pos = .idle) : exec .encode s = .next (runEncode Config.params s) := by
  simp only [exec, execEncode, onIdle_idle s _ h]

theorem exec_printImage (s : State) (h : s.pos = .idle) :
    exec .printImage s = .next (runPrintImage Config.params s) := by
  simp only [exec, execPrintImage, onIdle_idle s _ h]

theorem exec_setAlign (arg : BitVec 8) (s : State) (h : s.pos = .idle) :
    exec (.setAlign arg) s = .next (runSetAlign Config.params arg s) := by
  simp only [exec, execSetAlign, onIdle_idle s _ h]

/-- A command that answers a next state started at IDLE. -/
theorem exec_next_idle {i : Instr} {s t : State} (h : exec i s = .next t) : s.pos = .idle := by
  cases i <;> exact (onIdle_next h).1

/-- A CONVERT either raised one of its two errors or wrote the converted image. -/
theorem runConvert_cases (p : Params) (s : State) :
    (255 < s.imgH.toNat ∧ runConvert p s = raise .imageTooTall s) ∨
    (s.imgH.toNat ≤ 255 ∧ 2016 < s.imgW.toNat ∧ runConvert p s = raise .widthFieldOverflow s) ∨
    (s.imgH.toNat ≤ 255 ∧ s.imgW.toNat ≤ 2016 ∧ runConvert p s = succeed (convertImage p s)) := by
  obtain ⟨a, h⟩ | ⟨a, b, h⟩ | ⟨a, b, h⟩ := convertBody_cases p s
  · exact .inl ⟨a, by simp only [runConvert, h]⟩
  · exact .inr (.inl ⟨a, b, by simp only [runConvert, h]⟩)
  · exact .inr (.inr ⟨a, b, by simp only [runConvert, h]⟩)

/-- A PRINT_IMAGE either raised one of CONVERT's errors or encodes the converted image. -/
theorem runPrintImage_cases (p : Params) (s : State) :
    (255 < s.imgH.toNat ∧ runPrintImage p s = raise .imageTooTall s) ∨
    (s.imgH.toNat ≤ 255 ∧ 2016 < s.imgW.toNat ∧ runPrintImage p s = raise .widthFieldOverflow s) ∨
    (s.imgH.toNat ≤ 255 ∧ s.imgW.toNat ≤ 2016 ∧ runPrintImage p s = runEncode p (convertImage p s)) := by
  obtain ⟨a, h⟩ | ⟨a, b, h⟩ | ⟨a, b, h⟩ := convertBody_cases p s
  · exact .inl ⟨a, by simp only [runPrintImage, h]⟩
  · exact .inr (.inl ⟨a, b, by simp only [runPrintImage, h]⟩)
  · exact .inr (.inr ⟨a, b, by simp only [runPrintImage, h]⟩)

/-- An ENCODE with nothing to encode raises; otherwise it has offered the center command and waits with the rest. -/
theorem runEncode_cases (p : Params) (s : State) :
    (s.bvalid = false ∧ runEncode p s = raise .noBitstream s) ∨
    (s.bvalid = true ∧ ∃ rest, rasterParts s = .center :: rest ∧
      runEncode p s = await p .raster rest (offer p .center (beginRaster s))) := by
  cases h : s.bvalid with
  | false => exact .inl ⟨rfl, by simp [runEncode, h]⟩
  | true => exact .inr ⟨rfl, _, rfl, by simp only [runEncode, h]; rfl⟩

/-! ### Steps -/

/-- Everything a step that answers a next state can be: a late answer, an idle block, or one host action. -/
theorem step_cases {s t : State} (h : step s = .next t) :
    (∃ job rest, s.pos = .waiting job rest ∧ s.answers ≠ [] ∧ t = await Config.params job rest s) ∨
    (s.pos = .idle ∧ s.inbox = [] ∧ t = s) ∨
    (s.pos = .idle ∧ ∃ a rest, s.inbox = a :: rest ∧ hostStep a { s with inbox := rest } = .next t) := by
  cases hp : s.pos with
  | waiting job rest =>
    left
    cases ha : s.answers with
    | nil => simp [step, hp, ha] at h
    | cons x xs => exact ⟨job, rest, rfl, by simp, by simpa [step, hp, ha] using h.symm⟩
  | idle =>
    right
    cases hi : s.inbox with
    | nil => exact .inl ⟨rfl, rfl, by simpa [step, hp, hi] using h.symm⟩
    | cons a rest =>
      refine .inr ⟨rfl, a, rest, rfl, ?_⟩
      rw [← h]
      simp only [step, hp, hi]

/-- Everything a host action that answers a next state can be. -/
theorem hostStep_cases {a : HostAction} {s t : State} (hp : s.pos = .idle) (h : hostStep a s = .next t) :
    (∃ w i, a = .command w ∧ decode w = .ok i ∧ exec i s = .next t) ∨
    (∃ w e, a = .command w ∧ decode w = .error e ∧ t = raise .illegalCommand s) ∨
    (∃ v, a = .writeImgW v ∧ t = writeImgW v s) ∨ (∃ v, a = .writeImgH v ∧ t = writeImgH v s) ∨
    (∃ g, a = .setImage g ∧ t = setImage g s) ∨ (a = .readStatus ∧ t = s) ∨ (a = .reset ∧ t = resetBlock s) := by
  cases a with
  | command w =>
    simp only [hostStep, issue] at h
    cases hd : decode w with
    | ok i => rw [hd] at h; exact .inl ⟨w, i, rfl, hd, h⟩
    | error e =>
      rw [hd] at h
      simp only [illegalCommand, onIdle_idle _ _ hp, Host.Outcome.next.injEq] at h
      exact .inr (.inl ⟨w, e, rfl, hd, h.symm⟩)
  | writeImgW v => injection h with h; subst h; simp
  | writeImgH v => injection h with h; subst h; simp
  | setImage g => injection h with h; subst h; simp
  | readStatus => injection h with h; subst h; simp [statusRead]
  | reset => injection h with h; subst h; simp

end Sys2Proof.Machine
end

