-- ==== Sys2Proof/Tests/Slice0.lean ====
section
/-! SUPPORT. Tests whose expected results are the spec's own vectors (95_test_vectors.md) and encodings, and one witness
for every obligation with hypotheses. -/

namespace Sys2Proof.Tests

open Sys2Proof Sys2Proof.Machine Sys2Proof.Claims

/-! ### Small states -/

/-- A session after reset in which the host has presented a w by h image. -/
def presenting (w h : Nat) (rows : List (List Pixel)) (answers : List Answer) : State :=
  { State.reset with
    imgW := BitVec.ofNat 16 w, imgWGiven := true, imgH := BitVec.ofNat 16 h, imgHGiven := true,
    image := rows, answers := answers }

/-- A session that holds the bitstream of a 32 x 1 black image. -/
def holdingBlack (answers : List Answer) : State :=
  { presenting 32 1 [] answers with bvalid := true, pw := 32, ph := 1, bitBuf := List.replicate 32 true }

/-- A session whose host will do these actions. -/
def given (actions : List HostAction) (answers : List Answer) : State :=
  { holdingBlack answers with inbox := actions }

/-- A session waiting for the answer to SET_ALIGN RIGHT's call. -/
def waitingRight (answers : List Answer) : State :=
  { State.reset with pos := .waiting (.setAlign .right) [], chan := [⟨[0x1B], none⟩], answers := answers }

def midtone : Pixel := ⟨100, 100, 100⟩
def white : Pixel := ⟨255, 255, 255⟩
def black : Pixel := ⟨0, 0, 0⟩

/-- The byte strings of CHAN. -/
def bytesOf (s : State) : List (List Byte) := s.chan.map (·.bytes)

/-! ### WellFormed: each check refuses an ill-formed term -/

theorem test_wf_setAlign_number : (AsmLine.setAlignNum 256).wf = false ∧ (AsmLine.setAlignNum 255).wf = true := by decide
theorem test_wf_raw_word : (AsmLine.word 65536).wf = false ∧ (AsmLine.word 65535).wf = true := by decide
theorem test_wf_listed_width : (ImageDirective.listed 65536 0 []).wf = false := by decide
theorem test_wf_listed_height : (ImageDirective.listed 0 65536 []).wf = false := by decide
theorem test_wf_listed_pixels : (ImageDirective.listed 2 1 [black]).wf = false := by decide
theorem test_wf_fill_width : (ImageDirective.fill 65536 1 black).wf = false := by decide
theorem test_wf_fill_height : (ImageDirective.fill 1 65536 black).wf = false := by decide
theorem test_wf_params_suggested : Params.suggested.wf = true := by decide
theorem test_wf_params_empty_marker : (Params.wf { Params.suggested with marker := [] }) = false := by decide
theorem test_wf_params_empty_align : (Params.wf { Params.suggested with alignLeft := [] }) = false ∧
    (Params.wf { Params.suggested with alignCenter := [] }) = false ∧
    (Params.wf { Params.suggested with alignRight := [] }) = false := by decide
theorem test_wf_params_same_align : (Params.wf { Params.suggested with alignLeft := [0x1B, 0x61, 0x01] }) = false ∧
    (Params.wf { Params.suggested with alignLeft := [0x1B, 0x61, 0x02] }) = false ∧
    (Params.wf { Params.suggested with alignRight := [0x1B, 0x61, 0x01] }) = false := by decide

/-! ### Decode: words written out from R60 and R61 -/

/-- OP 0000_0001, ARG 0000_0000. -/
theorem test_decode_convert : decode 0b0000000100000000 = .ok .convert := by decide
/-- OP 0000_0010, ARG 0000_0000. -/
theorem test_decode_encode : decode 0b0000001000000000 = .ok .encode := by decide
/-- OP 0000_0011, ARG 0000_0000. -/
theorem test_decode_printImage : decode 0b0000001100000000 = .ok .printImage := by decide
/-- OP 0000_0100, ARG 0000_0001 and ARG 1111_1111 (V-A4a: the OP is legal). -/
theorem test_decode_setAlign : decode 0b0000010000000001 = .ok (.setAlign 1) ∧
    decode 0b0000010011111111 = .ok (.setAlign 255) := by decide
/-- V-I1: every word of the list is rejected. -/
theorem test_decode_illegal : [(0x0000 : Word), 0x0005, 0x0500, 0x8000, 0xFFFF, 0x0101, 0x0280, 0x03FF].all
    (fun w => match decode w with | .ok _ => false | .error _ => true) = true := by decide
theorem test_decodeTableWord : decodeTableWord 16 0x0402 = some (.setAlign 2) ∧ decodeTableWord 16 0x0102 = none ∧
    decodeTableWord 17 0x0100 = none := by decide

/-! ### Commands: vectors of 95_test_vectors.md, with the suggested parameters -/

/-- V-C2: a 1 x 1 black image is 15 zeros, 1, 16 zeros. -/
theorem test_convert_padding : (runConvert Params.suggested (presenting 1 1 [[black]] [])).bitBuf =
    List.replicate 15 false ++ [true] ++ List.replicate 16 false := by decide +kernel
/-- V-C12a: 2017 x 256 reports ImageTooTall. -/
theorem test_convert_check_order : (runConvert Params.suggested (presenting 2017 256 [] [])).err.code = 1 := by decide
/-- V-E1. -/
theorem test_encode_black : bytesOf (runEncode Params.suggested (holdingBlack (List.replicate 5 .accept))) =
    [[0x1B, 0x61, 0x01], [0x1D, 0x76, 0x30, 0x00], [0x04, 0x00, 0x01, 0x00], [0xFF, 0xFF, 0xFF, 0xFF],
      [0x1B, 0x61, 0x00]] := by decide +kernel
/-- V-E6: FAIL on call 3 ends ENCODE with code 4 and no body. -/
theorem test_encode_fails_at_header :
    (fun s : State => (s.err.code, s.bvalid, s.chan.length))
      (runEncode Params.suggested (holdingBlack [.accept, .accept, .fail 2])) = (4, false, 3) := by decide +kernel
/-- V-C13: an odd-width midtone image is a checkerboard. -/
theorem test_printImage_checkerboard :
    bytesOf (runPrintImage Params.suggested
      (presenting 3 2 (List.replicate 2 (List.replicate 3 midtone)) (List.replicate 6 .accept))) =
    [[0x1B, 0x61, 0x01], [0x1D, 0x76, 0x30, 0x00], [0x04, 0x00, 0x02, 0x00], [0x00, 0x02, 0x80, 0x00],
      [0x00, 0x01, 0x00, 0x00], [0x1B, 0x61, 0x00]] := by decide +kernel
/-- V-C16: the white pixel toggles the switch too. -/
theorem test_printImage_every_pixel_toggles :
    (bytesOf (runPrintImage Params.suggested
      (presenting 3 1 [[midtone, white, midtone]] (List.replicate 5 .accept)))).getD 3 [] =
    [0x00, 0x02, 0x80, 0x00] := by decide +kernel
/-- V-A2. -/
theorem test_setAlign_center : (fun s : State => (s.align, s.err.code, bytesOf s))
    (runSetAlign Params.suggested 1 (presenting 0 0 [] [.accept])) = (.center, 0, [[0x1B, 0x61, 0x01]]) := by decide
/-- V-A4. -/
theorem test_setAlign_three : (fun s : State => (s.align, s.err.code, bytesOf s))
    (runSetAlign Params.suggested 3 { presenting 0 0 [] [.accept] with align := .right }) = (.right, 5, []) := by decide

/-! ### Witnesses: for every obligation with hypotheses, values that meet them all -/

theorem witness_DecodeEncodeAgree : (Instr.setAlign 255).wf = true ∧ decode 0x04FF = .ok (.setAlign 255) := by decide

theorem witness_AssembledLinesDecode : (AsmLine.setAlignNum 255).wf = true ∧ (AsmLine.word 65535).wf = true := by decide

theorem witness_StepRunsDecodedCommand : (given [.command 0x0200, .reset] []).pos = .idle ∧
    (given [.command 0x0200, .reset] []).inbox = .command 0x0200 :: [.reset] ∧ decode 0x0200 = .ok .encode := by decide

/-- A word for each clause, at the clauses' ends. -/
theorem witness_IllegalWordChangesErrOnly :
    (given [.command 0x00FF] []).pos = .idle ∧ (given [.command 0x00FF] []).inbox = .command 0x00FF :: [] ∧
    (0x00FF : Word).toNat / 256 = 0 ∧ 0x05 ≤ (0x0500 : Word).toNat / 256 ∧ 0x05 ≤ (0xFFFF : Word).toNat / 256 ∧
    ((0x0101 : Word).toNat / 256 ≤ 0x03 ∧ (0x0101 : Word).toNat % 256 ≠ 0) ∧
    ((0x03FF : Word).toNat / 256 ≤ 0x03 ∧ (0x03FF : Word).toNat % 256 ≠ 0) := by decide

theorem witness_HostWritesDescriptorAndImage : (given [] []).pos = .idle ∧
    (given [.writeImgW 0xFFFF] []).inbox = .writeImgW 0xFFFF :: [] ∧
    (given [.writeImgH 0] []).inbox = .writeImgH 0 :: [] ∧
    (given [.setImage [[white]]] []).inbox = .setImage [[white]] :: [] := by decide

theorem witness_StatusReadChangesNothing : (given [.readStatus] []).pos = .idle ∧
    (given [.readStatus] []).inbox = .readStatus :: [] := by decide

theorem witness_StatusPortShowsRegisters : (holdingBlack []).pos = .idle ∧ (holdingBlack []).bvalid = true ∧
    31 < (holdingBlack []).pw.toNat * (holdingBlack []).ph.toNat ∧
    (holdingBlack []).pw.toNat * (holdingBlack []).ph.toNat ≤ 32 ∧ State.reset.bvalid = false ∧
    (waitingRight []).pos ≠ .idle := by decide

theorem witness_ResetTakesResetValues : (given [.reset] []).pos = .idle ∧
    (given [.reset] []).inbox = .reset :: [] := by decide

theorem witness_IdleBlockKeepsState : (given [] []).pos = .idle ∧ (given [] []).inbox = [] := by decide

theorem witness_CommandRefusedWhileWaiting : (waitingRight []).pos ≠ .idle := by decide

theorem witness_UnansweredCallHangs : (waitingRight []).pos = .waiting (.setAlign .right) [] ∧
    (waitingRight []).answers = [] := by decide

theorem witness_EveryWordHasANextState : (given [.command 0xFFFF] []).pos = .idle ∧
    (given [.command 0xFFFF] []).inbox = .command 0xFFFF :: [] := by decide

/-- A state for each clause, at the checks' boundaries: heights 255 and 256, widths 512, 513, 2016 and 2017. -/
theorem witness_ConvertChecksInOrder : (presenting 1 256 [] []).pos = .idle ∧ 255 < (presenting 1 256 [] []).imgH.toNat ∧
    (presenting 2017 255 [] []).imgH.toNat ≤ 255 ∧ 2016 < (presenting 2017 255 [] []).imgW.toNat ∧
    (presenting 2016 255 [] []).imgH.toNat ≤ 255 ∧ (presenting 2016 255 [] []).imgW.toNat ≤ 2016 ∧
    512 < (presenting 513 1 [] []).imgW.toNat ∧ (presenting 512 1 [] []).imgW.toNat ≤ 512 := by decide

theorem witness_ConvertSplitsPadding : (presenting 1 1 [] []).pos = .idle ∧ (presenting 1 1 [] []).imgH.toNat ≤ 255 ∧
    (presenting 1 1 [] []).imgW.toNat ≤ 2016 ∧ 31 = (32 - (presenting 1 1 [] []).imgW.toNat % 32) % 32 ∧ 15 = 31 / 2 ∧
    0 < (presenting 1 1 [] []).imgH.toNat ∧ 14 < 15 ∧ 15 < 31 - 15 := by decide

theorem witness_PaddedWidthLaws : ∃ t, exec .convert (presenting 33 1 [] []) = .next t ∧ t.err = .none := ⟨_, rfl, rfl⟩

/-- Row 1 of a 3 x 2 image: column 13 is padding, 14 and 16 are the first and last pixel, 17 is padding again. -/
theorem witness_ConvertEmitsDitheredRows : (presenting 3 2 [] []).pos = .idle ∧ 3 = (presenting 3 2 [] []).imgW.toNat ∧
    2 = (presenting 3 2 [] []).imgH.toNat ∧ 29 = (32 - 3 % 32) % 32 ∧ 1 < 2 ∧ 16 < 3 + 29 ∧ 13 < 29 / 2 ∧
    ¬ (14 < 29 / 2 ∨ 29 / 2 + 3 ≤ 14) ∧ ¬ (16 < 29 / 2 ∨ 29 / 2 + 3 ≤ 16) ∧ 29 / 2 + 3 ≤ 17 ∧
    (3 + 29) * 2 ≤ 64 := by decide

theorem witness_SwitchTogglesOncePerPixel : ∃ t, exec .convert (presenting 3 1 [] []) = .next t ∧ t.err = .none :=
  ⟨_, rfl, rfl⟩

theorem witness_ConvertReadsAndWritesOnly :
    (∃ t, exec .convert (presenting 3 1 [] []) = .next t) ∧ (∃ t, exec .convert (presenting 3 256 [] []) = .next t ∧ t.err ≠ .none) ∧
    SameImage (presenting 1 1 [[black]] []) { holdingBlack [] with imgW := 1, imgH := 1, image := [[black, white]] } := by
  refine ⟨⟨_, rfl⟩, ⟨_, rfl, by decide⟩, rfl, rfl, fun x y hx hy => ?_⟩
  have hx : x < 1 := hx
  have hy : y < 1 := hy
  obtain rfl : x = 0 := by omega
  obtain rfl : y = 0 := by omega
  rfl

theorem witness_MidtoneAreaPattern : (presenting 1 1 [[midtone]] []).pos = .idle ∧
    ∀ x y, x < (presenting 1 1 [[midtone]] []).imgW.toNat → y < (presenting 1 1 [[midtone]] []).imgH.toNat →
      256 ≤ luminance (pixelAt (presenting 1 1 [[midtone]] []).image x y) ∧
      luminance (pixelAt (presenting 1 1 [[midtone]] []).image x y) ≤ 510 := by
  refine ⟨rfl, fun x y hx hy => ?_⟩
  have hx : x < 1 := hx
  have hy : y < 1 := hy
  obtain rfl : x = 0 := by omega
  obtain rfl : y = 0 := by omega
  decide

theorem witness_EncodeWithoutBitstream : State.reset.pos = .idle ∧ State.reset.bvalid = false := by decide

theorem witness_EncodeSendsRasterCalls : (holdingBlack (List.replicate 5 .accept)).pos = .idle ∧
    (holdingBlack (List.replicate 5 .accept)).bvalid = true ∧
    (holdingBlack (List.replicate 5 .accept)).answers =
      List.replicate (rasterCalls (holdingBlack (List.replicate 5 .accept))).length .accept ++ [] := by decide +kernel

/-- The first call fails, and the last one. -/
theorem witness_EncodeStopsAtFirstFail : 0 < (rasterCalls (holdingBlack [.fail 1])).length ∧
    (holdingBlack [.fail 1]).pos = .idle ∧ (holdingBlack [.fail 1]).bvalid = true ∧
    (holdingBlack [.fail 1]).answers = List.replicate 0 .accept ++ .fail 1 :: [] ∧
    4 < (rasterCalls (holdingBlack [.accept, .accept, .accept, .accept, .fail 9])).length ∧
    (holdingBlack [.accept, .accept, .accept, .accept, .fail 9]).answers =
      List.replicate 4 .accept ++ .fail 9 :: [] := by decide +kernel

theorem witness_EncodeWaitsForAnswer : 4 < (rasterCalls (holdingBlack (List.replicate 4 .accept))).length ∧
    (holdingBlack (List.replicate 4 .accept)).pos = .idle ∧ (holdingBlack (List.replicate 4 .accept)).bvalid = true ∧
    (holdingBlack (List.replicate 4 .accept)).answers = List.replicate 4 .accept ∧
    0 < (rasterCalls (holdingBlack [])).length ∧ (holdingBlack []).answers = List.replicate 0 .accept := by
  decide +kernel

theorem witness_RasterPrintByteStream :
    (∃ t, exec .encode (holdingBlack (List.replicate 5 .accept)) = .next t ∧ t.pos = .idle ∧ t.err = .none) ∧
    (∃ t, exec .printImage (presenting 0 0 [] (List.replicate 4 .accept)) = .next t ∧ t.pos = .idle ∧ t.err = .none) :=
  ⟨⟨_, rfl, rfl, rfl⟩, ⟨_, rfl, rfl, rfl⟩⟩

theorem witness_EncodeConsumesBitstream : (holdingBlack [.fail 0]).bvalid = true ∧
    ∃ t, exec .encode (holdingBlack [.fail 0]) = .next t ∧ t.pos = .idle := ⟨rfl, _, rfl, rfl⟩

theorem witness_EncodeFrame : (∃ t, exec .encode (holdingBlack [.accept]) = .next t ∧ t.pos ≠ .idle) ∧
    (∃ t, exec .encode State.reset = .next t) ∧ State.reset.bvalid = false :=
  ⟨⟨_, rfl, by decide⟩, ⟨_, rfl⟩, rfl⟩

theorem witness_PackerIsMsbFirst : [true, false, true, true, false, false, false, true].length = 8 := by decide

theorem inv_holdingBlack (actions : List HostAction) (answers : List Answer) : Inv (given actions answers) where
  pwAligned := by show (32 : Word).toNat % 32 = 0; decide
  pwBound := by show (32 : Word).toNat ≤ 2016; decide
  bufHolds := by show (32 : Word).toNat * (1 : Byte).toNat ≤ (List.replicate 32 true).length; decide
  bufForm := by show Memory.wf (List.replicate 32 true) = true; decide
  packerOk := by show ([] : List Bool) = [] ∧ ([] : List Byte).length ≤ 4; decide
  callsOk := by intro c hc; exact absurd hc (by simp [given, holdingBlack, presenting, State.reset])
  answered := by intro c hc; exact absurd hc (by simp [given, holdingBlack, presenting, State.reset])
  position := rfl
  advice := by intro e he; exact absurd he (by simp [given, holdingBlack, presenting, State.reset])

theorem witness_HeaderCountsExact : Inv (given [] []) := inv_holdingBlack [] []

theorem witness_PrintImageOfBadSize : (presenting 1 256 [] []).pos = .idle ∧ 255 < (presenting 1 256 [] []).imgH.toNat ∧
    (presenting 2017 255 [] []).imgH.toNat ≤ 255 ∧ 2016 < (presenting 2017 255 [] []).imgW.toNat := by decide

theorem witness_PrintImageIsConvertThenEncode :
    (∃ t, exec .convert (presenting 1 1 [[black]] [.accept]) = .next t ∧ t.err = .none) ∧
    (∃ t, exec .convert (presenting 1 256 [] []) = .next t ∧ t.err ≠ .none) := ⟨⟨_, rfl, rfl⟩, ⟨_, rfl, by decide⟩⟩

theorem witness_PrintImageCallsAndBytes : (presenting 33 1 [] (List.replicate 6 .accept)).pos = .idle ∧
    (presenting 33 1 [] (List.replicate 6 .accept)).imgH.toNat ≤ 255 ∧
    (presenting 33 1 [] (List.replicate 6 .accept)).imgW.toNat ≤ 2016 ∧ 64 = 33 + (32 - 33 % 32) % 32 ∧
    (presenting 33 1 [] (List.replicate 6 .accept)).answers = List.replicate (4 + 64 * 1 / 32) .accept ++ [] := by decide

theorem witness_EmptyImagePrintsHeaderOnly : (presenting 0 5 [] (List.replicate 4 .accept)).pos = .idle ∧
    (presenting 0 5 [] (List.replicate 4 .accept)).imgH.toNat ≤ 255 ∧
    (presenting 0 5 [] (List.replicate 4 .accept)).imgW = 0 ∧ 0 = 0 + (32 - 0 % 32) % 32 ∧
    (presenting 5 0 [] (List.replicate 4 .accept)).imgH = 0 ∧ 32 = 5 + (32 - 5 % 32) % 32 ∧
    (presenting 5 0 [] (List.replicate 4 .accept)).answers = List.replicate 4 .accept ++ [] := by decide

theorem witness_PrintDependsOnImageAndAlign : (presenting 1 1 [[black]] [.accept]).pos = .idle ∧
    SameImage (presenting 1 1 [[black]] [.accept])
      { holdingBlack [.accept] with imgW := 1, imgH := 1, image := [[black, white]] } ∧
    (presenting 1 1 [[black]] [.accept]).align = (holdingBlack [.accept]).align ∧
    (presenting 1 1 [[black]] [.accept]).answers = (holdingBlack [.accept]).answers := by
  refine ⟨rfl, ⟨rfl, rfl, fun x y hx hy => ?_⟩, rfl, rfl⟩
  have hx : x < 1 := hx
  have hy : y < 1 := hy
  obtain rfl : x = 0 := by omega
  obtain rfl : y = 0 := by omega
  rfl

theorem witness_PrintImageFrame : (∃ t, exec .printImage (presenting 0 1 [] []) = .next t ∧ t.pos ≠ .idle) ∧
    255 < (presenting 0 256 [] []).imgH.toNat ∧ 2016 < (presenting 2017 1 [] []).imgW.toNat ∧
    (∃ t, exec .printImage (presenting 2017 1 [] []) = .next t) ∧ (presenting 2016 255 [] []).imgH.toNat ≤ 255 ∧
    (presenting 2016 255 [] []).imgW.toNat ≤ 2016 :=
  ⟨⟨_, rfl, by decide⟩, by decide, by decide, ⟨_, rfl⟩, by decide, by decide⟩

/-- Arguments at the ends of both clauses, and both answers. -/
theorem witness_SetAlignFollowsRule : (holdingBlack [.accept]).pos = .idle ∧ 2 < (3 : BitVec 8).toNat ∧
    2 < (255 : BitVec 8).toNat ∧ (0 : BitVec 8).toNat = 0 ∧ (2 : BitVec 8).toNat = 2 ∧
    (holdingBlack [.accept]).answers = .accept :: [] ∧ (holdingBlack [.fail 3]).answers = .fail 3 :: [] := by decide

theorem witness_SetAlignFrame : (∃ t, exec (.setAlign 2) (holdingBlack []) = .next t ∧ t.pos ≠ .idle) ∧
    (∃ t, exec (.setAlign 2) (holdingBlack [.accept]) = .next t ∧ t.align ≠ (holdingBlack [.accept]).align) :=
  ⟨⟨_, rfl, by decide⟩, ⟨_, rfl, by decide⟩⟩

theorem witness_BogusAlignAfterCenterSendsNothing : (given [.command 0x0401, .command 0x0403] [.accept]).pos = .idle ∧
    (0x0403 : Word).toNat / 256 = 4 ∧ 3 ≤ (0x0403 : Word).toNat % 256 ∧
    (0x04FF : Word).toNat / 256 = 4 ∧ 3 ≤ (0x04FF : Word).toNat % 256 ∧
    (given [.command 0x0401, .command 0x0403] [.accept]).inbox = [.command 0x0401, .command 0x0403] ∧
    (given [.command 0x0401, .command 0x0403] [.accept]).answers = .accept :: [] := by decide

theorem witness_LateAnswersGiveTheSameRun :
    (∃ t, exec .encode { holdingBlack [] with answers := [.accept] } = .next t ∧ t.pos ≠ .idle) ∧
    [Answer.accept, .accept, .accept, .accept] ≠ [] := ⟨⟨_, rfl, by decide⟩, by decide⟩

/-- Code 6 for the first clause, code 4 for the second, code 4 after a wait for the third. -/
theorem witness_ErrorsArePrecise :
    (∃ t, (given [.command 0x0500] []).inbox = .command 0x0500 :: [] ∧ step (given [.command 0x0500] []) = .next t ∧
      t.pos = .idle ∧ t.err.code ≠ 0 ∧ t.err.code ≠ 4) ∧
    (∃ t, (given [.command 0x0200] [.fail 1]).inbox = .command 0x0200 :: [] ∧
      step (given [.command 0x0200] [.fail 1]) = .next t ∧ t.pos = .idle ∧ t.err.code = 4 ∧
      (0x0200 : Word).toNat / 256 ≠ 4) ∧
    (∃ t, (waitingRight [.fail 2]).pos = .waiting (.setAlign .right) [] ∧ step (waitingRight [.fail 2]) = .next t ∧
      t.pos = .idle ∧ t.err.code = 4) :=
  ⟨⟨_, rfl, rfl, rfl, by decide, by decide⟩, ⟨_, rfl, rfl, rfl, by decide, by decide⟩, ⟨_, rfl, rfl, rfl, by decide⟩⟩

theorem witness_OnlyConvertWritesBitstream :
    ∃ t, step { presenting 513 0 [] [] with inbox := [.command 0x0100] } = .next t ∧ t.adv ≠ State.reset.adv :=
  ⟨_, rfl, by decide⟩

theorem witness_OnlySetAlignWritesAlign :
    (∃ t, step (given [.command 0x0402] [.accept]) = .next t ∧ t.align ≠ (given [] []).align) ∧
    (∃ t, step (waitingRight [.accept]) = .next t ∧ t.align ≠ (waitingRight []).align) :=
  ⟨⟨_, rfl, by decide⟩, ⟨_, rfl, by decide⟩⟩

theorem witness_ChannelHistoryOnlyGrows : (∃ t, step (waitingRight [.accept]) = .next t) ∧
    ¬ ((waitingRight [.accept]).pos = .idle ∧ ∃ rest, (waitingRight [.accept]).inbox = .reset :: rest) :=
  ⟨⟨_, rfl⟩, fun h => absurd h.1 (by decide)⟩

theorem witness_DeliveredBytesStay : Inv (given [.command 0x0200] [.fail 1]) ∧
    (∃ t, step (given [.command 0x0200] [.fail 1]) = .next t) ∧
    ¬ ((given [.command 0x0200] [.fail 1]).pos = .idle ∧
      ∃ rest, (given [.command 0x0200] [.fail 1]).inbox = .reset :: rest) := by
  refine ⟨inv_holdingBlack _ _, ⟨_, rfl⟩, fun h => ?_⟩
  obtain ⟨-, rest, h⟩ := h
  simp [given] at h

theorem witness_StepKeepsBlockInvariant : Inv (given [.command 0x0402] []) ∧
    ∃ t, step (given [.command 0x0402] []) = .next t ∧ t.pos ≠ .idle := ⟨inv_holdingBlack _ _, _, rfl, by decide⟩

theorem witness_CommandsEndWhenAnswered : Inv (given [] (List.replicate 16069 .accept)) ∧
    (given [] (List.replicate 16069 .accept)).pos = .idle ∧
    16069 ≤ (given [] (List.replicate 16069 .accept)).answers.length := by
  refine ⟨inv_holdingBlack _ _, rfl, ?_⟩
  show 16069 ≤ (List.replicate 16069 Answer.accept).length
  exact (List.length_replicate ..).ge

theorem witness_ImageDirectiveLoadsImage : (ImageDirective.listed 2 1 [black, white]).wf = true ∧
    (ImageDirective.fill 65535 65535 black).wf = true ∧ (given [] []).pos = .idle ∧
    (given (directiveActions (.listed 2 1 [black, white]) ++ [.command 0x0300]) []).inbox =
      directiveActions (.listed 2 1 [black, white]) ++ [.command 0x0300] := by decide

end Sys2Proof.Tests
end

section
/-! PROOFS. A raster print that ends without error: every call was accepted, so the bytes of its calls, end to end, are
the byte string of R65. -/

namespace Sys2Proof.Machine

open Sys2Proof

/-! ### Which answers a successful raster print had -/

/-- Only if every call was accepted does a raster print come back to IDLE without error (R104, R105). -/
theorem await_raster_succeeds {p : Params} {rest : List Part} {s : State} {pre : List WriteCall} {bytes : List Byte}
    (hc : s.chan = pre ++ [⟨bytes, none⟩]) (hpos : (await p .raster rest s).pos = .idle)
    (herr : (await p .raster rest s).err = .none) :
    ∃ more, s.answers = List.replicate (rest.length + 1) .accept ++ more := by
  obtain hall | ⟨k, j, more, hk, ha⟩ | ⟨k, hk, ha⟩ := answers_cases (rest.length + 1) s.answers
  · exact hall
  · rw [await_one_failed p rest s pre bytes k j more (by simpa using hk) hc ha] at herr
    cases herr
  · obtain ⟨packer, h, -⟩ := await_lacking p rest s pre bytes k (by simpa using hk) hc ha
    rw [h] at hpos
    cases hpos

/-- The state a successful ENCODE leaves: its calls stand in CHAN in order, each accepted (R99 to R105). -/
theorem runEncode_succeeds {p : Params} {s : State} (hpos : (runEncode p s).pos = .idle)
    (herr : (runEncode p s).err = .none) :
    ∃ more, runEncode p s = succeed { beginRaster s with
      answers := more,
      chan := s.chan ++ ((rasterParts s).map (callBytes p (beginRaster s))).map acceptedCall } := by
  obtain ⟨-, h⟩ | ⟨-, rest, hparts, h⟩ := runEncode_cases p s <;> rw [h] at hpos herr
  · cases herr
  · have hc : (offer p .center (beginRaster s)).chan = s.chan ++ [⟨callBytes p (beginRaster s) .center, none⟩] := rfl
    obtain ⟨more, ha⟩ := await_raster_succeeds hc hpos herr
    have hb : callBytes p (offer p .center (beginRaster s)) = callBytes p (beginRaster s) := by
      funext q; exact partBytes_congr p q rfl rfl rfl rfl rfl
    refine ⟨more, ?_⟩
    rw [h, await_all_accepted p rest _ _ _ more hc ha, hparts, hb]
    rfl

/-! ### The bytes of the calls -/

/-- Accepted calls join the protocol-level output with all their bytes (R17). -/
theorem flatMap_acceptedBytes_acceptedCall (calls : List (List Byte)) :
    (calls.map acceptedCall).flatMap acceptedBytes = calls.flatten := by
  induction calls with
  | nil => rfl
  | cons c cs ih => simp [acceptedCall, acceptedBytes, ih]

/-- The first m groups of 4, the last one cut at n, are the indices below n that they reach, in order. -/
theorem range_map_groups {α : Type} (f : Nat → α) (n m : Nat) :
    ((List.range m).map fun g => (List.range (min 4 (n - 4 * g))).map fun i => f (4 * g + i)).flatten =
      (List.range (min (4 * m) n)).map f := by
  induction m with
  | zero => simp
  | succ m ih =>
    rw [List.range_succ, List.map_append, List.flatten_append, ih]
    obtain h | h : n ≤ 4 * m ∨ 4 * m < n := by omega
    · have hlast : min 4 (n - 4 * m) = 0 := by omega
      have hreach : min (4 * (m + 1)) n = min (4 * m) n := by omega
      simp [hlast, hreach]
    · have hreach : min (4 * (m + 1)) n = 4 * m + min 4 (n - 4 * m) := by omega
      rw [hreach, List.range_add, Nat.min_eq_left (Nat.le_of_lt h)]
      simp [Function.comp_def]

/-- A bit as a byte, 0 or 1. -/
def byteOfBit (b : Bool) : Byte := if b then 1 else 0

theorem bit_eq (s : State) (i : Nat) : Claims.bit s i = byteOfBit (bitAt s i) := rfl

/-- The packer's byte of eight bits, bit by bit: the first bit in bit 7 (R40, R69). -/
theorem byteOfBits_eight : ∀ a b c d e f g h : Bool,
    byteOfBits [a, b, c, d, e, f, g, h] =
      byteOfBit a <<< 7 ||| byteOfBit b <<< 6 ||| byteOfBit c <<< 5 ||| byteOfBit d <<< 4 |||
        byteOfBit e <<< 3 ||| byteOfBit f <<< 2 ||| byteOfBit g <<< 1 ||| byteOfBit h := by
  decide

/-- The byte packed from bit 8j on is body byte j (R69). -/
theorem byteOfBits_bitAt (s : State) (j : Nat) :
    byteOfBits ((List.range 8).map fun t => bitAt s (8 * j + t)) = Claims.bodyByte s j := by
  simp only [Claims.bodyByte, bit_eq, ← byteOfBits_eight]
  rfl

/-- The calls of the body groups, end to end, are the body bytes (R69, R70, R101). -/
theorem groupCalls_flatten (p : Params) (s : State) :
    ((List.range (groupCount s)).map fun g => callBytes p s (.group g)).flatten =
      (List.range (Claims.bodyBytes s)).map (Claims.bodyByte s) := by
  have hcall : ∀ g, callBytes p s (.group g) =
      (List.range (min 4 (Claims.bodyBytes s - 4 * g))).map fun i => Claims.bodyByte s (4 * g + i) := by
    intro g
    simp only [callBytes, partBytes, packGroup_empty, byteOfBits_bitAt]
    rfl
  have hcount : min (4 * groupCount s) (Claims.bodyBytes s) = Claims.bodyBytes s := by
    change min (4 * ((Claims.bodyBytes s + 3) / 4)) _ = _
    omega
  simp only [hcall, range_map_groups, hcount]

/-- The calls of a raster print, end to end (R65). -/
theorem rasterCalls_flatten (p : Params) (s : State) :
    ((rasterParts s).map (callBytes p s)).flatten =
      p.alignCmd .center ++ p.marker ++ Claims.header s ++
        (List.range (Claims.bodyBytes s)).map (Claims.bodyByte s) ++ p.alignCmd s.savedAlign := by
  have hbody := groupCalls_flatten p s
  simp only [rasterParts, List.map_append, List.map_map, List.flatten_append, Function.comp_def, hbody]
  simp [callBytes, partBytes, headerBytes, widthBytes, Claims.header]

/-- A successful ENCODE puts the byte string of R65 on the channel. -/
theorem runEncode_byteStream {p : Params} {s : State} (hpos : (runEncode p s).pos = .idle)
    (herr : (runEncode p s).err = .none) :
    protocolBytes (runEncode p s) = protocolBytes s ++ p.alignCmd .center ++ p.marker ++
      Claims.header (runEncode p s) ++
      (List.range (Claims.bodyBytes (runEncode p s))).map (Claims.bodyByte (runEncode p s)) ++
      p.alignCmd (runEncode p s).savedAlign ∧
    (runEncode p s).savedAlign = s.align := by
  obtain ⟨more, h⟩ := runEncode_succeeds hpos herr
  rw [h]
  refine ⟨?_, rfl⟩
  have hbytes := rasterCalls_flatten p (beginRaster s)
  change (s.chan ++ ((rasterParts (beginRaster s)).map (callBytes p (beginRaster s))).map acceptedCall).flatMap
    acceptedBytes = _
  rw [List.flatMap_append, flatMap_acceptedBytes_acceptedCall, hbytes]
  simp only [List.append_assoc]
  rfl

end Sys2Proof.Machine

namespace Sys2Proof.Proofs

open Sys2Proof Sys2Proof.Machine

/-- Settles O27: a raster print that ends without error had every call accepted, and its calls end to end are the byte
string of R65; a PRINT_IMAGE is the ENCODE of the converted image, whose ALIGN and CHAN CONVERT left as they were. -/
theorem rasterPrintByteStream : Obligations.RasterPrintByteStream := by
  unfold Obligations.RasterPrintByteStream
  rintro i s t (rfl | rfl) hexec hpos herr
  · rw [exec_encode s (exec_next_idle hexec)] at hexec
    injection hexec with ht
    subst ht
    exact runEncode_byteStream hpos herr
  · rw [exec_printImage s (exec_next_idle hexec)] at hexec
    injection hexec with ht
    obtain ⟨-, h⟩ | ⟨-, -, h⟩ | ⟨-, -, h⟩ := runPrintImage_cases Config.params s <;> rw [← ht, h] at herr
    · cases herr
    · cases herr
    · rw [← ht, h] at hpos ⊢
      exact runEncode_byteStream hpos herr

end Sys2Proof.Proofs
end

section
/-! PROOFS. The image directive (R76): the three host actions it stands for, and the pixels the port answers after. -/

namespace Sys2Proof.Machine

open Sys2Proof

/-! ### Host actions in a run -/

/-- At IDLE the step takes the host's next action (R141). -/
theorem step_hostAction {s : State} {a : HostAction} {rest : List HostAction} (hpos : s.pos = .idle)
    (hin : s.inbox = a :: rest) : step s = hostStep a { s with inbox := rest } := by
  simp only [step, hpos, hin]

/-- One more step of a run, where that step answers a next state. -/
theorem run_succ_of_step {s t : State} (h : step s = .next t) (k : Nat) :
    Host.Core.run core (k + 1) s = Host.Core.run core k t := by
  have hcore : core.step s = .next t := h
  simp only [Host.Core.run, hcore]

/-- Writing the descriptor and the image takes three steps from IDLE and changes nothing else. -/
theorem run_loadImage {s : State} {v u : Word} {g : List (List Pixel)} {rest : List HostAction} (hpos : s.pos = .idle)
    (hin : s.inbox = .writeImgW v :: .writeImgH u :: .setImage g :: rest) :
    Host.Core.run core 3 s = .next { s with
      imgW := v, imgWGiven := true, imgH := u, imgHGiven := true, image := g, inbox := rest } := by
  calc Host.Core.run core 3 s
      _ = Host.Core.run core 2 (writeImgW v { s with inbox := .writeImgH u :: .setImage g :: rest }) :=
        run_succ_of_step (step_hostAction hpos hin) 2
      _ = Host.Core.run core 1 (writeImgH u { writeImgW v s with inbox := .setImage g :: rest }) :=
        run_succ_of_step (step_hostAction (a := .writeImgH u) (by exact hpos) rfl) 1
      _ = Host.Core.run core 0 (setImage g { writeImgH u (writeImgW v s) with inbox := rest }) :=
        run_succ_of_step (step_hostAction (a := .setImage g) (by exact hpos) rfl) 0

/-! ### The pixels of a directive's grid (R45, R76) -/

/-- The port answers pixel (x, y) of a listed image with the pixel at place y * w + x of the list. -/
theorem pixelAt_gridOf_listed {w h x y : Nat} {pixels : List Pixel} (hlen : pixels.length = w * h) (hx : x < w)
    (hy : y < h) : pixels[y * w + x]? = some (pixelAt (gridOf (.listed w h pixels)) x y) := by
  have hplace : y * w + x < pixels.length := by
    calc y * w + x < y * w + w := by omega
      _ = (y + 1) * w := (Nat.succ_mul y w).symm
      _ ≤ h * w := Nat.mul_le_mul_right w hy
      _ = pixels.length := by rw [hlen, Nat.mul_comm]
  simp [pixelAt, gridOf, hx, hy, hplace]

/-- The port answers every pixel of a filled image with its one pixel. -/
theorem pixelAt_gridOf_fill {w h x y : Nat} (px : Pixel) (hx : x < w) (hy : y < h) :
    pixelAt (gridOf (.fill w h px)) x y = px := by
  simp [pixelAt, gridOf, hx, hy]

end Sys2Proof.Machine

namespace Sys2Proof.Proofs

open Sys2Proof Sys2Proof.Machine

/-- Settles O50: the directive's three actions run one after another from IDLE; W and H fit their registers, and the
grid holds the directive's pixels at their places. -/
theorem imageDirectiveLoadsImage : Obligations.ImageDirectiveLoadsImage := by
  unfold Obligations.ImageDirectiveLoadsImage
  intro s d rest hwf hpos hin
  cases d with
  | listed w h pixels =>
    simp only [ImageDirective.wf, Bool.and_eq_true, decide_eq_true_eq] at hwf
    obtain ⟨⟨hw, hh⟩, hlen⟩ := hwf
    exact ⟨_, run_loadImage hpos hin, rfl, Nat.mod_eq_of_lt hw, Nat.mod_eq_of_lt hh,
      fun _ _ => pixelAt_gridOf_listed hlen⟩
  | fill w h px =>
    simp only [ImageDirective.wf, Bool.and_eq_true, decide_eq_true_eq] at hwf
    obtain ⟨hw, hh⟩ := hwf
    exact ⟨_, run_loadImage hpos hin, rfl, Nat.mod_eq_of_lt hw, Nat.mod_eq_of_lt hh,
      fun _ _ => pixelAt_gridOf_fill px⟩

end Sys2Proof.Proofs
end

section
/-! PROOFS. CONVERT (R77 to R95): which of its three outcomes it has, the bits the converted image leaves in BitBuf, and
that these come from the descriptor and the pixel port alone. -/

namespace Sys2Proof.Machine

open Sys2Proof

/-! ### The outcome, by the operands (R79) -/

theorem runConvert_of_tooTall (p : Params) {s : State} (hh : 255 < s.imgH.toNat) :
    runConvert p s = raise .imageTooTall s := by
  obtain ⟨-, h⟩ | ⟨hle, -, -⟩ | ⟨hle, -, -⟩ := runConvert_cases p s
  · exact h
  all_goals omega

theorem runConvert_of_tooWide (p : Params) {s : State} (hh : s.imgH.toNat ≤ 255) (hw : 2016 < s.imgW.toNat) :
    runConvert p s = raise .widthFieldOverflow s := by
  obtain ⟨hlt, -⟩ | ⟨-, -, h⟩ | ⟨-, hle, -⟩ := runConvert_cases p s
  · omega
  · exact h
  · omega

theorem runConvert_of_fits (p : Params) {s : State} (hh : s.imgH.toNat ≤ 255) (hw : s.imgW.toNat ≤ 2016) :
    runConvert p s = succeed (convertImage p s) := by
  obtain ⟨hlt, -⟩ | ⟨-, hlt, -⟩ | ⟨-, -, h⟩ := runConvert_cases p s
  · omega
  · omega
  · exact h

/-- An error raised at IDLE changes ERR alone (R143). -/
theorem raise_of_idle {s : State} (e : ErrCode) (hpos : s.pos = .idle) : raise e s = { s with err := e } := by
  rw [raise, ← hpos]

/-! ### The advisory (R24, R34) -/

theorem adv_of_wide {w : Word} (h : 512 < w.toNat) : advOf w.toNat = true ∧ adviceOf w = [.wideImage w] := by
  have hadv : advOf w.toNat = true := decide_eq_true h
  exact ⟨hadv, if_pos hadv⟩

theorem adv_of_narrow {w : Word} (h : w.toNat ≤ 512) : advOf w.toNat = false ∧ adviceOf w = [] := by
  have hadv : advOf w.toNat = false := decide_eq_false (Nat.not_lt.mpr h)
  exact ⟨hadv, if_neg (by simp [hadv])⟩

/-! ### The dimensions and the bits of the converted image -/

theorem convertImage_pw_toNat (p : Params) {s : State} (hw : s.imgW.toNat ≤ 2016) :
    (convertImage p s).pw.toNat = paddedWidth s.imgW.toNat := by
  have hle := paddedWidth_le s.imgW.toNat hw
  rw [convertImage_pw, BitVec.toNat_ofNat]
  omega

theorem convertImage_ph_toNat (p : Params) {s : State} (hh : s.imgH.toNat ≤ 255) :
    (convertImage p s).ph.toNat = s.imgH.toNat := by
  rw [convertImage_ph, BitVec.toNat_ofNat]
  omega

/-- The bitstream a CONVERT in state s emits, and SWITCH after it. -/
def emitted (p : Params) (s : State) : List Bool × Bool :=
  emitRows (leftPad s.imgW.toNat) (rightPad s.imgW.toNat) (imageRows s.image s.imgW.toNat s.imgH.toNat) p.switchInit

theorem convertImage_bitBuf_emitted (p : Params) (s : State) :
    (convertImage p s).bitBuf = Memory.load s.bitBuf (emitted p s).1 := rfl

theorem convertImage_switch_emitted (p : Params) (s : State) : (convertImage p s).switch = (emitted p s).2 := rfl

theorem emitted_length (p : Params) (s : State) :
    (emitted p s).1.length = s.imgH.toNat * paddedWidth s.imgW.toNat := by
  rw [emitted, emitRows_length _ _ s.imgW.toNat _ _ (imageRows_width _ _ _), imageRows_length, paddedWidth,
    Nat.add_comm (leftPad _)]

/-- The bit memory holds the emitted bitstream from bit 0 on. -/
theorem bitAt_convertImage_emitted (p : Params) (s : State) {i : Nat} (hi : i < (emitted p s).1.length) :
    bitAt (convertImage p s) i = (emitted p s).1[i] :=
  read_load_written s.bitBuf (emitted p s).1 i hi

/-- The bits past the padded image keep their values (R77). -/
theorem bitAt_convertImage_past (p : Params) (s : State) {i : Nat}
    (hi : s.imgH.toNat * paddedWidth s.imgW.toNat ≤ i) : bitAt (convertImage p s) i = bitAt s i :=
  read_load_other s.bitBuf (emitted p s).1 i (by rwa [emitted_length])

/-- Bit c of padded row y: 0 in the padding, and for a pixel its level under the switch at it (R46, R87, R89). -/
theorem bitAt_convertImage_row (p : Params) (s : State) {y c : Nat} (hy : y < s.imgH.toNat)
    (hc : c < paddedWidth s.imgW.toNat) :
    bitAt (convertImage p s) (y * paddedWidth s.imgW.toNat + c) =
      if c < leftPad s.imgW.toNat ∨ leftPad s.imgW.toNat + s.imgW.toNat ≤ c then false
      else pixbit (luminance (pixelAt s.image (c - leftPad s.imgW.toNat) y))
        (p.switchInit ^^ decide ((y * s.imgW.toNat + (c - leftPad s.imgW.toNat) + 1) % 2 = 1)) := by
  have hwidth : paddedWidth s.imgW.toNat = leftPad s.imgW.toNat + s.imgW.toNat + rightPad s.imgW.toNat := by
    rw [paddedWidth, Nat.add_comm (leftPad _)]
  have hbit := emitRows_getElem? (leftPad s.imgW.toNat) (rightPad s.imgW.toNat) s.imgW.toNat
    (imageRows s.image s.imgW.toNat s.imgH.toNat) p.switchInit (imageRows_width _ _ _) y c (by simpa using hy)
    (by omega)
  rw [← hwidth] at hbit
  obtain ⟨hi, hbit⟩ := List.getElem?_eq_some_iff.mp hbit
  rw [bitAt_convertImage_emitted p s hi]
  refine hbit.trans ?_
  split
  · rfl
  · have hx : c - leftPad s.imgW.toNat < s.imgW.toNat := by omega
    simp [imageRows, imageRow, hx]

/-- The padding columns of every row are 0 (R15, R87). -/
theorem bitAt_convertImage_padding (p : Params) (s : State) {y c : Nat} (hy : y < s.imgH.toNat)
    (hc : c < paddedWidth s.imgW.toNat)
    (hpad : c < leftPad s.imgW.toNat ∨ leftPad s.imgW.toNat + s.imgW.toNat ≤ c) :
    bitAt (convertImage p s) (y * paddedWidth s.imgW.toNat + c) = false := by
  rw [bitAt_convertImage_row p s hy hc, if_pos hpad]

/-! ### What CONVERT leaves unchanged and what it depends on (R78) -/

/-- Whatever its outcome, a CONVERT touches neither the host's side nor the registers of the other commands. -/
theorem runConvert_frame (p : Params) {s : State} (hpos : s.pos = .idle) :
    Claims.HostSideSame s (runConvert p s) ∧ (runConvert p s).align = s.align ∧
      (runConvert p s).savedAlign = s.savedAlign ∧ (runConvert p s).packer = s.packer ∧
      (runConvert p s).chan = s.chan ∧ (runConvert p s).pos = s.pos ∧ (runConvert p s).answers = s.answers := by
  obtain ⟨-, h⟩ | ⟨-, -, h⟩ | ⟨-, -, h⟩ := runConvert_cases p s <;> rw [h, hpos]
  all_goals exact ⟨⟨rfl, rfl, rfl, rfl, rfl, rfl⟩, rfl, rfl, rfl, rfl, rfl, rfl⟩

/-- No bit past the padded image changes: a failing CONVERT writes none, and a passing one writes PW * PH of them. -/
theorem bitAt_runConvert_past (p : Params) (s : State) {i : Nat}
    (hi : (runConvert p s).pw.toNat * (runConvert p s).ph.toNat ≤ i) : bitAt (runConvert p s) i = bitAt s i := by
  obtain ⟨-, h⟩ | ⟨-, -, h⟩ | ⟨hh, hw, h⟩ := runConvert_cases p s <;> rw [h] at hi ⊢
  · rfl
  · rfl
  · rw [succeed_pw, succeed_ph, convertImage_pw_toNat p hw, convertImage_ph_toNat p hh, Nat.mul_comm] at hi
    exact bitAt_convertImage_past p s hi

/-- A failing CONVERT changes no bit (R79). -/
theorem bitAt_runConvert_of_err (p : Params) (s : State) (herr : (runConvert p s).err ≠ .none) (i : Nat) :
    bitAt (runConvert p s) i = bitAt s i := by
  obtain ⟨-, h⟩ | ⟨-, -, h⟩ | ⟨-, -, h⟩ := runConvert_cases p s <;> rw [h] at herr ⊢
  · rfl
  · rfl
  · exact absurd rfl herr

/-- The emitted bitstream comes from the descriptor and the pixels in range alone. -/
theorem emitted_congr (p : Params) {s t : State} (h : Claims.SameImage s t) : emitted p s = emitted p t := by
  obtain ⟨hw, hh, hpixels⟩ := h
  simp only [emitted, imageRows_congr hpixels, ← hw, ← hh]

/-- Two converted images of the same image agree on every bit of it. -/
theorem bitAt_convertImage_congr (p : Params) {s t : State} (h : Claims.SameImage s t) {i : Nat}
    (hi : i < s.imgH.toNat * paddedWidth s.imgW.toNat) :
    bitAt (convertImage p s) i = bitAt (convertImage p t) i := by
  have hsame := emitted_congr p h
  have hi : i < (emitted p s).1.length := by rwa [emitted_length]
  rw [bitAt_convertImage_emitted p s hi, bitAt_convertImage_emitted p t (by rwa [← hsame])]
  simp only [hsame]

end Sys2Proof.Machine

namespace Sys2Proof.Proofs

open Sys2Proof Sys2Proof.Machine

/-- Settles O17: PW is the image width plus both paddings, and each of the padding columns of a row is 0. -/
theorem convertSplitsPadding : Obligations.ConvertSplitsPadding := by
  unfold Obligations.ConvertSplitsPadding
  intro s b left hpos hh hw hb hleft
  have hborder : border s.imgW.toNat = b := by rw [border_eq, hb]
  have hlp : leftPad s.imgW.toNat = left := by rw [leftPad_eq, hborder, hleft]
  have hwidth : paddedWidth s.imgW.toNat = s.imgW.toNat + b := by rw [paddedWidth_eq, hborder]
  refine ⟨_, exec_convert s hpos, by omega, ?_⟩
  rw [runConvert_of_fits _ hh hw, succeed_pw, convertImage_pw_toNat _ hw]
  refine ⟨by omega, hwidth, fun y hy => ⟨fun c hc => ?_, fun c hc => ?_⟩⟩
  · exact bitAt_convertImage_padding _ s hy (by omega) (.inl (by omega))
  · rw [Nat.add_assoc, Nat.add_assoc]
    exact bitAt_convertImage_padding _ s hy (by omega) (.inr (by omega))

/-- Settles O21: the frame holds in each outcome, and two states with the same image have the same outcome, whose
values are functions of the descriptor and the emitted bitstream. -/
theorem convertReadsAndWritesOnly : Obligations.ConvertReadsAndWritesOnly := by
  unfold Obligations.ConvertReadsAndWritesOnly
  refine ⟨fun s t hexec => ?_, fun s₁ s₂ hpos₁ hpos₂ hsame => ?_⟩
  · have hpos := exec_next_idle hexec
    rw [exec_convert s hpos] at hexec
    injection hexec with ht
    subst ht
    obtain ⟨hhost, halign, hsaved, hpacker, hchan, hp, hanswers⟩ := runConvert_frame Config.params hpos
    exact ⟨hhost, halign, hsaved, hpacker, hchan, hp, hanswers, fun _ => bitAt_runConvert_past _ s,
      bitAt_runConvert_of_err _ s⟩
  · have ⟨hw, hh, _⟩ := hsame
    rw [exec_convert s₁ hpos₁, exec_convert s₂ hpos₂]
    obtain ⟨htall, h⟩ | ⟨hle, hwide, h⟩ | ⟨hle, hfits, h⟩ := runConvert_cases Config.params s₁ <;> rw [h]
    · rw [runConvert_of_tooTall _ (hh ▸ htall)]
      exact ⟨_, _, [], rfl, rfl, rfl, by simp, by simp, by simp⟩
    · rw [runConvert_of_tooWide _ (hh ▸ hle) (hw ▸ hwide)]
      exact ⟨_, _, [], rfl, rfl, rfl, by simp, by simp, by simp⟩
    · rw [runConvert_of_fits _ (hh ▸ hle) (hw ▸ hfits)]
      refine ⟨_, _, adviceOf s₁.imgW, rfl, rfl, rfl, rfl, by simp [hw], fun _ => ⟨?_, by simp [hw], by simp [hh],
        by simp [hw], rfl, fun i hi => ?_⟩⟩
      · simp only [succeed_switch, convertImage_switch_emitted, emitted_congr _ hsame]
      · rw [succeed_pw, succeed_ph, convertImage_pw_toNat _ hfits, convertImage_ph_toNat _ hle, Nat.mul_comm] at hi
        exact bitAt_convertImage_congr _ hsame hi

/-- Settles O16: a case of the checks for each clause, and on the path that proceeds a case of the advisory. -/
theorem convertChecksInOrder : Obligations.ConvertChecksInOrder := by
  unfold Obligations.ConvertChecksInOrder
  intro s hpos
  rw [exec_convert s hpos]
  refine ⟨fun hh => ?_, fun hh hw => ?_, fun hh hw => ?_⟩
  · rw [runConvert_of_tooTall _ hh, raise_of_idle _ hpos]
  · rw [runConvert_of_tooWide _ hh hw, raise_of_idle _ hpos]
  · rw [runConvert_of_fits _ hh hw]
    refine ⟨_, rfl, rfl, rfl, rfl, rfl, fun hwide => ?_, fun hnarrow => ?_⟩
    · obtain ⟨hadv, hadvice⟩ := adv_of_wide hwide
      exact ⟨hadv, by simp [hadvice]⟩
    · obtain ⟨hadv, hadvice⟩ := adv_of_narrow hnarrow
      exact ⟨hadv, by simp [hadvice]⟩

end Sys2Proof.Proofs
end

section
/-! PROOFS. ENCODE (R96 to R105): the calls it makes, the state it leaves when every call is accepted and when one fails,
and the bitstream it consumes. -/

namespace Sys2Proof.Machine

open Sys2Proof

/-! ### The calls of a raster print (R70) -/

/-- A body call carries its group's body bytes (R69, R101). -/
theorem callBytes_group (p : Params) (s : State) (g : Nat) : callBytes p s (.group g) = Claims.bodyCall s g := by
  simp only [callBytes, partBytes, packGroup_empty, byteOfBits_bitAt]
  rfl

/-- The parts of a raster print, sent from its start, are the calls of R70. -/
theorem rasterParts_map_callBytes (s : State) :
    (rasterParts s).map (callBytes Config.params (beginRaster s)) = Claims.rasterCalls s := by
  simp only [rasterParts, List.map_append, List.map_map, Function.comp_def, callBytes_group]
  rfl

/-- An ENCODE with a bitstream has offered the first call of R70 and waits with the rest. -/
theorem runEncode_offers {s : State} (hb : s.bvalid = true) :
    ∃ bytes rest, (offer Config.params .center (beginRaster s)).chan = s.chan ++ [⟨bytes, none⟩] ∧
      bytes :: rest.map (callBytes Config.params (offer Config.params .center (beginRaster s))) =
        Claims.rasterCalls s ∧
      runEncode Config.params s = await Config.params .raster rest (offer Config.params .center (beginRaster s)) := by
  obtain ⟨hb', -⟩ | ⟨-, rest, hparts, h⟩ := runEncode_cases Config.params s
  · simp [hb] at hb'
  · refine ⟨callBytes Config.params (beginRaster s) .center, rest, rfl, ?_, h⟩
    rw [← rasterParts_map_callBytes s, hparts]
    rfl

/-! ### ENCODE's outcomes -/

/-- With nothing to encode, ENCODE changes ERR alone (R97). -/
theorem exec_encode_of_consumed {s : State} (hpos : s.pos = .idle) (hb : s.bvalid = false) :
    exec .encode s = .next { s with err := .noBitstream } := by
  rw [exec_encode s hpos, ← raise_of_idle _ hpos]
  obtain ⟨-, h⟩ | ⟨hb', -⟩ := runEncode_cases Config.params s
  · rw [h]
  · simp [hb] at hb'

/-- Every call accepted: ENCODE succeeds with all its calls in CHAN (R105). -/
theorem runEncode_all_accepted {s : State} {more : List Answer} (hb : s.bvalid = true)
    (ha : s.answers = List.replicate (Claims.rasterCalls s).length .accept ++ more) :
    runEncode Config.params s = succeed { beginRaster s with
      answers := more, chan := s.chan ++ (Claims.rasterCalls s).map acceptedCall } := by
  obtain ⟨bytes, rest, hc, hcalls, h⟩ := runEncode_offers hb
  have hlen : (Claims.rasterCalls s).length = rest.length + 1 := by simp [← hcalls]
  rw [h, await_all_accepted _ rest _ _ bytes more hc (hlen ▸ ha), hcalls]
  rfl

/-- Call k failed: ENCODE raises with the calls up to it in CHAN, the last of them cut short (R104, R48). -/
theorem runEncode_one_failed {s : State} {k j : Nat} {more : List Answer} (hk : k < (Claims.rasterCalls s).length)
    (hb : s.bvalid = true) (ha : s.answers = List.replicate k .accept ++ .fail j :: more) :
    runEncode Config.params s = raise .transportError { beginRaster s with
      answers := more,
      chan := s.chan ++ ((Claims.rasterCalls s).take k).map acceptedCall ++
        [⟨(Claims.rasterCalls s)[k], some (.failed (min j (Claims.rasterCalls s)[k].length))⟩] } := by
  obtain ⟨bytes, rest, hc, hcalls, h⟩ := runEncode_offers hb
  rw [h, await_one_failed _ rest _ _ bytes k j more (hcalls ▸ hk) hc ha]
  simp only [hcalls]
  rfl

/-- Whatever the answers, ENCODE saves ALIGN and consumes the bitstream (R98). -/
theorem runEncode_consumes {s : State} (hb : s.bvalid = true) :
    (runEncode Config.params s).savedAlign = s.align ∧ (runEncode Config.params s).bvalid = false := by
  obtain ⟨-, rest, -, -, h⟩ := runEncode_offers hb
  have hsame := await_same Config.params .raster rest (offer Config.params .center (beginRaster s))
  rw [h]
  exact ⟨hsame.savedAlign, hsame.bvalid⟩

end Sys2Proof.Machine

namespace Sys2Proof.Proofs

open Sys2Proof Sys2Proof.Machine

/-- Settles O24: with an accepting answer for every call the command completes, and its calls are those of R70. -/
theorem encodeSendsRasterCalls : Obligations.EncodeSendsRasterCalls := by
  unfold Obligations.EncodeSendsRasterCalls
  intro s more hpos hb ha
  rw [exec_encode s hpos, runEncode_all_accepted hb ha, succeed, ← hpos]
  rfl

/-- Settles O25: the failed answer to call k raises, whichever call it is. -/
theorem encodeStopsAtFirstFail : Obligations.EncodeStopsAtFirstFail := by
  unfold Obligations.EncodeStopsAtFirstFail
  intro s k j more hk hpos hb ha
  rw [exec_encode s hpos, runEncode_one_failed hk hb ha, raise_of_idle _ (by exact hpos)]
  exact ⟨rfl, rfl⟩

/-- Settles O28: no answer touches SAVED_ALIGN or BVALID after ENCODE's start, so once the block is IDLE again a second
ENCODE finds no bitstream. -/
theorem encodeConsumesBitstream : Obligations.EncodeConsumesBitstream := by
  unfold Obligations.EncodeConsumesBitstream
  intro s t hb hexec
  rw [exec_encode s (exec_next_idle hexec)] at hexec
  injection hexec with ht
  subst ht
  obtain ⟨hsaved, hconsumed⟩ := runEncode_consumes hb
  exact ⟨hsaved, hconsumed, fun hpos => exec_encode_of_consumed hpos hconsumed⟩

/-- Settles O23: without a bitstream ENCODE raises at once. -/
theorem encodeWithoutBitstream : Obligations.EncodeWithoutBitstream := by
  unfold Obligations.EncodeWithoutBitstream
  exact fun _ hpos hb => ⟨exec_encode_of_consumed hpos hb, rfl⟩

end Sys2Proof.Proofs
end

section
/-! PROOFS. SET_ALIGN (R116 to R118), the command words that are no command (R119), and the status read (R121). -/

namespace Sys2Proof

/-! ### The fields of a command word (R60) -/

theorem opOf_toNat (w : Word) : (opOf w).toNat = w.toNat / 256 := by
  have hw : w.toNat < 65536 := w.isLt
  simp only [opOf, BitVec.extractLsb'_toNat, Nat.shiftRight_eq_div_pow]
  omega

theorem argOf_toNat (w : Word) : (argOf w).toNat = w.toNat % 256 := by
  simp [argOf]

/-! ### Decoding, by OP and ARG (R61, R63) -/

theorem decode_of_reservedOp {w : Word} (h : w.toNat / 256 = 0 ∨ 0x05 ≤ w.toNat / 256) :
    decode w = .error (.reservedOp (opOf w)) := by
  rw [← opOf_toNat] at h
  unfold decode
  split
  case h_5 => rfl
  all_goals omega

/-- A command with no operand must have ARG 0 (R63 (b)). -/
theorem decode_of_nonzeroArg {w : Word} (hop : 0 < w.toNat / 256 ∧ w.toNat / 256 ≤ 0x03)
    (harg : w.toNat % 256 ≠ 0) : decode w = .error (.nonzeroArg (opOf w) (argOf w)) := by
  have hneed : ∀ i, needZeroArg w i = .error (.nonzeroArg (opOf w) (argOf w)) := by
    intro i
    refine if_neg fun h => harg ?_
    rw [← argOf_toNat, h]
    rfl
  obtain h | h | h : (opOf w).toNat = 1 ∨ (opOf w).toNat = 2 ∨ (opOf w).toNat = 3 := by
    rw [opOf_toNat]
    omega
  all_goals
    rw [decode, h]
    exact hneed _

/-- A word outside the opcode map is no command (R63). -/
theorem decode_of_illegal {w : Word}
    (h : w.toNat / 256 = 0 ∨ 0x05 ≤ w.toNat / 256 ∨ (w.toNat / 256 ≤ 0x03 ∧ w.toNat % 256 ≠ 0)) :
    ∃ e, decode w = .error e := by
  by_cases hop : w.toNat / 256 = 0 ∨ 0x05 ≤ w.toNat / 256
  · exact ⟨_, decode_of_reservedOp hop⟩
  · exact ⟨_, decode_of_nonzeroArg (by omega) (by omega)⟩

/-- Every ARG makes a SET_ALIGN word (R62, R63 (c)). -/
theorem decode_setAlign (arg : BitVec 8) : decode ((0x04 : BitVec 8) ++ arg) = .ok (.setAlign arg) := by
  have hop : opOf ((0x04 : BitVec 8) ++ arg) = 0x04 := BitVec.extractLsb'_append_eq_left
  have harg : argOf ((0x04 : BitVec 8) ++ arg) = arg := BitVec.extractLsb'_append_eq_right
  unfold decode
  rw [hop, harg]
  rfl

end Sys2Proof

namespace Sys2Proof.Machine

open Sys2Proof

/-! ### The alignment argument (R62) -/

/-- An argument outside the vocabulary names no alignment. -/
theorem alignOfArg_of_outside {arg : BitVec 8} (h : 2 < arg.toNat) : alignOfArg arg = none := by
  unfold alignOfArg
  split
  case h_4 => rfl
  all_goals omega

/-- An argument that is an alignment's code names that alignment. -/
theorem alignOfArg_of_code {arg : BitVec 8} {a : Align} (h : arg.toNat = a.code.toNat) : alignOfArg arg = some a := by
  unfold alignOfArg
  rw [h]
  cases a <;> rfl

/-! ### SET_ALIGN's outcomes (R116) -/

theorem runSetAlign_of_outside (p : Params) {arg : BitVec 8} (s : State) (h : 2 < arg.toNat) :
    runSetAlign p arg s = raise .invalidStyleValue s := by
  rw [runSetAlign, alignOfArg_of_outside h]

/-- A legal SET_ALIGN has offered its one call, whatever ALIGN holds (R117), and has no call left to make. -/
theorem runSetAlign_offers (p : Params) {arg : BitVec 8} {a : Align} (s : State) (h : arg.toNat = a.code.toNat) :
    runSetAlign p arg s = await p (.setAlign a) [] (offer p (.align a) s) := by
  rw [runSetAlign, alignOfArg_of_code h]
  rfl

/-- The answer to SET_ALIGN's call is recorded with it and leaves the packer alone. -/
theorem answered_offer_align (p : Params) (a : Align) (x : Answer) (more : List Answer) (s : State) :
    answered (.setAlign a) x more (offer p (.align a) s) = { s with
      answers := more, chan := s.chan ++ [⟨p.alignCmd a, some (respond x (p.alignCmd a))⟩] } := by
  rw [answered, offer_chan, settleLast_append]
  rfl

theorem runSetAlign_accepted (p : Params) {arg : BitVec 8} {a : Align} {s : State} {more : List Answer}
    (h : arg.toNat = a.code.toNat) (ha : s.answers = .accept :: more) :
    runSetAlign p arg s = succeed { s with
      align := a, answers := more, chan := s.chan ++ [acceptedCall (p.alignCmd a)] } := by
  rw [runSetAlign_offers p s h, await_accept_last p _ _ more (by exact ha), answered_offer_align]
  rfl

theorem runSetAlign_failed (p : Params) {arg : BitVec 8} {a : Align} {s : State} {k : Nat} {more : List Answer}
    (h : arg.toNat = a.code.toNat) (ha : s.answers = .fail k :: more) :
    runSetAlign p arg s = raise .transportError { s with
      answers := more,
      chan := s.chan ++ [⟨p.alignCmd a, some (.failed (min k (p.alignCmd a).length))⟩] } := by
  rw [runSetAlign_offers p s h, await_fail p _ _ _ k more (by exact ha), answered_offer_align]
  rfl

/-! ### A word that is no command (R119) -/

theorem issue_of_error {s : State} {w : Word} {e : DecodeError} (hpos : s.pos = .idle) (hd : decode w = .error e) :
    issue w s = .next { s with err := .illegalCommand } := by
  simp only [issue, hd, illegalCommand, onIdle_idle s _ hpos, raise_of_idle _ hpos]

end Sys2Proof.Machine

namespace Sys2Proof.Proofs

open Sys2Proof Sys2Proof.Machine

/-- Settles O6: such a word decodes to no command, and the step that takes it raises at IDLE. -/
theorem illegalWordChangesErrOnly : Obligations.IllegalWordChangesErrOnly := by
  unfold Obligations.IllegalWordChangesErrOnly
  intro s w rest hpos hin hw
  obtain ⟨e, hd⟩ := decode_of_illegal hw
  refine ⟨?_, rfl⟩
  rw [step_hostAction hpos hin]
  exact issue_of_error (by exact hpos) hd

/-- Settles O9: the step takes the host's action, and a status read is the identity on the state. -/
theorem statusReadChangesNothing : Obligations.StatusReadChangesNothing := by
  unfold Obligations.StatusReadChangesNothing
  intro s rest hpos hin
  rw [step_hostAction hpos hin]
  rfl

/-- Settles O38: an argument outside the vocabulary raises before any call; a legal one offers its one call, and the
answer to it decides whether ALIGN is written. -/
theorem setAlignFollowsRule : Obligations.SetAlignFollowsRule := by
  unfold Obligations.SetAlignFollowsRule
  refine ⟨rfl, rfl, decode_setAlign, fun s arg hpos => ?_⟩
  rw [exec_setAlign arg s hpos]
  refine ⟨fun hout => ?_, fun a harg => ?_⟩
  · rw [runSetAlign_of_outside _ s hout, raise_of_idle _ hpos]
  · have hcode : arg.toNat = a.code.toNat := by cases a <;> exact harg
    refine ⟨fun more ha => ?_, fun k more ha => ?_⟩
    · rw [runSetAlign_accepted _ hcode ha, succeed, ← hpos]
      rfl
    · rw [runSetAlign_failed _ hcode ha, raise_of_idle _ (by exact hpos)]

end Sys2Proof.Proofs
end

section
/-! PROOFS. The precision of errors (R143, R144): what a command has changed when it ends with an error, at once or
after a wait. -/

namespace Sys2Proof

/-! ### The words of SET_ALIGN (R61) -/

theorem needZeroArg_ok {w : Word} {i j : Instr} (h : needZeroArg w i = .ok j) : i = j := by
  unfold needZeroArg at h
  split at h
  · exact Except.ok.inj h
  · cases h

/-- Only a word with OP 4 is a SET_ALIGN. -/
theorem op_of_decode_setAlign {w : Word} {arg : BitVec 8} (h : decode w = .ok (.setAlign arg)) :
    w.toNat / 256 = 4 := by
  rw [← opOf_toNat]
  unfold decode at h
  split at h
  case h_4 hop => exact hop
  case h_5 => cases h
  all_goals cases needZeroArg_ok h

end Sys2Proof

namespace Sys2Proof.Machine

open Sys2Proof

/-! ### The codes of ERR (R142) -/

theorem errCode_eq_zero {e : ErrCode} : e.code = 0 ↔ e = .none := by cases e <;> decide

theorem errCode_eq_four {e : ErrCode} : e.code = 4 ↔ e = .transportError := by cases e <;> decide

/-! ### How waiting for answers ends (R47, R104) -/

/-- What holds when the block starts to wait, and is kept each time a call is accepted and the next one offered, holds
when it stops: still waiting, at a failed call, or with its last call accepted. -/
theorem await_ends (p : Params) (job : Job) {I : State → Prop}
    (hnext : ∀ part more u, I u → I (offer p part (answered job .accept more u))) (rest : List Part) {s : State}
    (hs : I s) :
    ∃ u, I u ∧ ((∃ left, await p job rest s = { u with pos := .waiting job left }) ∨
      (∃ k more, await p job rest s = raise .transportError (answered job (.fail k) more u)) ∨
      (∃ more, await p job rest s = complete job (answered job .accept more u))) := by
  induction rest generalizing s with
  | nil =>
    match h : s.answers with
    | [] => exact ⟨s, hs, .inl ⟨_, await_unanswered p job _ s h⟩⟩
    | .fail k :: more => exact ⟨s, hs, .inr (.inl ⟨k, more, await_fail p job _ s k more h⟩)⟩
    | .accept :: more => exact ⟨s, hs, .inr (.inr ⟨more, await_accept_last p job s more h⟩)⟩
  | cons part rest ih =>
    match h : s.answers with
    | [] => exact ⟨s, hs, .inl ⟨_, await_unanswered p job _ s h⟩⟩
    | .fail k :: more => exact ⟨s, hs, .inr (.inl ⟨k, more, await_fail p job _ s k more h⟩)⟩
    | .accept :: more =>
      rw [await_accept_next p job part rest s more h]
      exact ih (hnext part more s hs)

@[simp] theorem complete_err (job : Job) (s : State) : (complete job s).err = .none := by cases job <;> rfl

@[simp] theorem complete_chan (job : Job) (s : State) : (complete job s).chan = s.chan := by cases job <;> rfl

/-- The step of a waiting block resumes its command (R13). -/
theorem eq_await_of_step {s t : State} {job : Job} {rest : List Part} (hpos : s.pos = .waiting job rest)
    (h : step s = .next t) : t = await Config.params job rest s := by
  obtain ⟨job', rest', hpos', -, ht⟩ | ⟨hidle, -⟩ | ⟨hidle, -⟩ := step_cases h
  · obtain ⟨rfl, rfl⟩ : job = job' ∧ rest = rest' := by simpa [hpos] using hpos'
    exact ht
  · simp [hpos] at hidle
  · simp [hpos] at hidle

/-- A wait that ends, ends without error or with TransportError, and then ALIGN is not written (R104, R116). -/
theorem await_idle_cases (p : Params) (job : Job) (rest : List Part) {s : State}
    (hpos : (await p job rest s).pos = .idle) :
    (await p job rest s).err = .none ∨
      (await p job rest s).err = .transportError ∧ (await p job rest s).align = s.align := by
  obtain ⟨u, halign, ⟨left, h⟩ | ⟨k, more, h⟩ | ⟨more, h⟩⟩ :=
    await_ends p job (I := fun u => u.align = s.align) (fun _ _ _ hu => hu) rest rfl
  · rw [h] at hpos
    cases hpos
  · exact .inr ⟨by rw [h, raise_err], by rw [h, raise_align, answered_align, halign]⟩
  · exact .inl (by rw [h, complete_err])

/-! ### The calls of a wait (R33, R48) -/

/-- Recording an answer changes no byte string of CHAN. -/
theorem settleLast_map_bytes (a : Answer) (cs : List WriteCall) :
    (settleLast a cs).map (·.bytes) = cs.map (·.bytes) := by
  obtain rfl | ⟨pre, c, rfl⟩ := cs.eq_nil_or_concat
  · rfl
  · simp [settleLast_append]

/-- However it stops, a wait keeps the byte strings of the calls already offered. -/
theorem await_chan_grows (p : Params) (job : Job) (rest : List Part) (s : State) :
    s.chan.map (·.bytes) <+: (await p job rest s).chan.map (·.bytes) := by
  obtain ⟨u, hgrown, ⟨left, h⟩ | ⟨k, more, h⟩ | ⟨more, h⟩⟩ :=
    await_ends p job (I := fun u => s.chan.map (·.bytes) <+: u.chan.map (·.bytes))
      (fun _ _ _ hu => by
        rw [offer_chan, answered_chan, List.map_append, settleLast_map_bytes]
        exact hu.trans (List.prefix_append _ _))
      rest (List.prefix_refl _)
  · rwa [h]
  · rwa [h, raise_chan, answered_chan, settleLast_map_bytes]
  · rwa [h, complete_chan, answered_chan, settleLast_map_bytes]

/-- The call `chan` ends with is unanswered, and each call between `before` and it was accepted. -/
def CallsPending (before chan : List WriteCall) : Prop :=
  ∃ (calls : List (List Byte)) (bytes : List Byte), chan = before ++ calls.map Claims.accepted ++ [⟨bytes, none⟩]

/-- The call `chan` ends with failed, and each call between `before` and it was accepted (R104). -/
def CallsCutShort (before chan : List WriteCall) : Prop :=
  ∃ (calls : List (List Byte)) (bytes : List Byte) (k : Nat),
    chan = before ++ calls.map Claims.accepted ++ [⟨bytes, some (.failed k)⟩] ∧ k ≤ bytes.length

theorem callsPending_offer (p : Params) (part : Part) (s : State) : CallsPending s.chan (offer p part s).chan :=
  ⟨[], partBytes p s part, by simp⟩

/-- The pending call is accepted and the next one is offered. -/
theorem CallsPending.next {before : List WriteCall} {u : State} (h : CallsPending before u.chan) (p : Params)
    (job : Job) (part : Part) (more : List Answer) :
    CallsPending before (offer p part (answered job .accept more u)).chan := by
  obtain ⟨calls, bytes, hc⟩ := h
  refine ⟨calls ++ [bytes], partBytes p (answered job .accept more u) part, ?_⟩
  rw [offer_chan, answered_chan, hc, settleLast_append]
  simp [respond, Claims.accepted]

/-- The pending call fails; at most all of its bytes were delivered (R48). -/
theorem CallsPending.fail {before chan : List WriteCall} (h : CallsPending before chan) (k : Nat) :
    CallsCutShort before (settleLast (.fail k) chan) := by
  obtain ⟨calls, bytes, rfl⟩ := h
  exact ⟨calls, bytes, min k bytes.length, settleLast_append _ _ _, Nat.min_le_right _ _⟩

/-- A wait that ends with TransportError leaves accepted calls and then the failed one. -/
theorem await_cutShort (p : Params) (job : Job) (rest : List Part) {s : State} {before : List WriteCall}
    (hc : CallsPending before s.chan) (hpos : (await p job rest s).pos = .idle)
    (herr : (await p job rest s).err = .transportError) :
    CallsCutShort before (await p job rest s).chan := by
  obtain ⟨u, hu, ⟨left, h⟩ | ⟨k, more, h⟩ | ⟨more, h⟩⟩ :=
    await_ends p job (I := fun u => CallsPending before u.chan) (fun part more _ hu => hu.next p job part more) rest
      hc
  · rw [h] at hpos
    cases hpos
  · rw [h, raise_chan, answered_chan]
    exact hu.fail k
  · rw [h, complete_err] at herr
    cases herr

/-! ### How a command ends (R143, R144) -/

/-- The three ends of command i, run from s: without error; with an error that changes ERR alone; or with
TransportError, where ALIGN is kept, the bitstream is consumed unless i is SET_ALIGN, and CHAN gains accepted calls and
then the failed one. -/
def EndsPrecisely (i : Instr) (s t : State) : Prop :=
  t.err = .none ∨ (t.err ≠ .transportError ∧ t = { s with err := t.err }) ∨
    (t.err = .transportError ∧ t.align = s.align ∧ ((∀ arg, i ≠ .setAlign arg) → t.bvalid = false) ∧
      CallsCutShort s.chan t.chan)

theorem raise_endsPrecisely (i : Instr) {s : State} {e : ErrCode} (hpos : s.pos = .idle) (he : e ≠ .transportError) :
    EndsPrecisely i s (raise e s) :=
  .inr (.inl ⟨he, raise_of_idle e hpos⟩)

/-- A command that has come to its write calls in state u ends without error or at its failed call. -/
theorem await_offer_endsPrecisely {i : Instr} (p : Params) (job : Job) (part : Part) (rest : List Part) {s u : State}
    (halign : u.align = s.align) (hchan : u.chan = s.chan) (hb : (∀ arg, i ≠ .setAlign arg) → u.bvalid = false)
    (hend : (await p job rest (offer p part u)).pos = .idle) :
    EndsPrecisely i s (await p job rest (offer p part u)) := by
  obtain herr | ⟨herr, hkept⟩ := await_idle_cases p job rest hend
  · exact .inl herr
  · have hcut := await_cutShort p job rest (callsPending_offer p part u) hend herr
    have hsame := (await_same p job rest (offer p part u)).bvalid
    exact .inr (.inr ⟨herr, hkept.trans halign, fun hi => hsame.trans (hb hi), hchan ▸ hcut⟩)

theorem runConvert_endsPrecisely (p : Params) {s : State} (hpos : s.pos = .idle) :
    EndsPrecisely .convert s (runConvert p s) := by
  obtain ⟨-, h⟩ | ⟨-, -, h⟩ | ⟨-, -, h⟩ := runConvert_cases p s <;> rw [h]
  · exact raise_endsPrecisely _ hpos (by decide)
  · exact raise_endsPrecisely _ hpos (by decide)
  · exact .inl rfl

theorem runEncode_endsPrecisely (p : Params) {s : State} (hpos : s.pos = .idle)
    (hend : (runEncode p s).pos = .idle) : EndsPrecisely .encode s (runEncode p s) := by
  obtain ⟨-, h⟩ | ⟨-, rest, -, h⟩ := runEncode_cases p s <;> rw [h] at hend ⊢
  · exact raise_endsPrecisely _ hpos (by decide)
  · exact await_offer_endsPrecisely p .raster .center rest rfl rfl (fun _ => rfl) hend

/-- A PRINT_IMAGE never ends with NoBitstream, which would show the converted image: its ENCODE has the bitstream that
its CONVERT made. -/
theorem runPrintImage_endsPrecisely (p : Params) {s : State} (hpos : s.pos = .idle)
    (hend : (runPrintImage p s).pos = .idle) : EndsPrecisely .printImage s (runPrintImage p s) := by
  obtain ⟨-, h⟩ | ⟨-, -, h⟩ | ⟨-, -, h⟩ := runPrintImage_cases p s <;> rw [h] at hend ⊢
  · exact raise_endsPrecisely _ hpos (by decide)
  · exact raise_endsPrecisely _ hpos (by decide)
  · obtain ⟨hb, -⟩ | ⟨-, rest, -, h⟩ := runEncode_cases p (convertImage p s)
    · cases hb
    · rw [h] at hend ⊢
      exact await_offer_endsPrecisely p .raster .center rest rfl rfl (fun _ => rfl) hend

theorem runSetAlign_endsPrecisely (p : Params) (arg : BitVec 8) {s : State} (hpos : s.pos = .idle)
    (hend : (runSetAlign p arg s).pos = .idle) : EndsPrecisely (.setAlign arg) s (runSetAlign p arg s) := by
  unfold runSetAlign at hend ⊢
  cases h : alignOfArg arg with
  | none => exact raise_endsPrecisely _ hpos (by decide)
  | some a =>
    rw [h] at hend
    exact await_offer_endsPrecisely p (.setAlign a) (.align a) [] rfl rfl (fun hi => absurd rfl (hi arg)) hend

/-- A command that ends in the step that runs it ends in one of the three ways. -/
theorem exec_endsPrecisely {i : Instr} {s t : State} (hexec : exec i s = .next t) (hend : t.pos = .idle) :
    EndsPrecisely i s t := by
  cases i with
  | convert =>
    obtain ⟨hpos, rfl⟩ := onIdle_next hexec
    exact runConvert_endsPrecisely _ hpos
  | encode =>
    obtain ⟨hpos, rfl⟩ := onIdle_next hexec
    exact runEncode_endsPrecisely _ hpos hend
  | printImage =>
    obtain ⟨hpos, rfl⟩ := onIdle_next hexec
    exact runPrintImage_endsPrecisely _ hpos hend
  | setAlign arg =>
    obtain ⟨hpos, rfl⟩ := onIdle_next hexec
    exact runSetAlign_endsPrecisely _ arg hpos hend

/-- A command word that ends at IDLE ends the command it decodes to in one of the three ways; a word that is no command
changes ERR alone (R119). -/
theorem issue_cases {s t : State} {w : Word} (hpos : s.pos = .idle) (h : issue w s = .next t)
    (hend : t.pos = .idle) :
    (∃ i, decode w = .ok i ∧ EndsPrecisely i s t) ∨ t = { s with err := .illegalCommand } := by
  cases hd : decode w with
  | ok i =>
    simp only [issue, hd] at h
    exact .inl ⟨i, rfl, exec_endsPrecisely h hend⟩
  | error e =>
    rw [issue_of_error hpos hd] at h
    injection h with ht
    exact .inr ht.symm

end Sys2Proof.Machine

namespace Sys2Proof.Proofs

open Sys2Proof Sys2Proof.Machine

/-- Settles O42: a command word ends its command in one of the three precise ways; a late answer that ends a command
either completes it or fails its last call, and no answer touches BVALID or a call's bytes. -/
theorem errorsArePrecise : Obligations.ErrorsArePrecise := by
  unfold Obligations.ErrorsArePrecise
  simp only [ne_eq, errCode_eq_zero, errCode_eq_four]
  refine ⟨fun s t w rest hpos hin hstep hend => ?_, fun s t job rest hpos hstep hend => ?_⟩
  · rw [step_hostAction hpos hin] at hstep
    obtain ⟨i, hd, herr | ⟨herr, ht⟩ | ⟨herr, halign, hb, hcut⟩⟩ | ht :=
      issue_cases (by exact hpos) hstep hend
    · simp [herr]
    · exact ⟨fun _ _ => ht, fun h => absurd h herr⟩
    · refine ⟨fun _ h => absurd herr h, fun _ => ⟨halign, fun hop => hb ?_, hcut⟩⟩
      rintro arg rfl
      exact hop (op_of_decode_setAlign hd)
    · subst ht
      simp
  · obtain rfl := eq_await_of_step hpos hstep
    have hb := (await_same Config.params job rest s).bvalid
    have hgrows := await_chan_grows Config.params job rest s
    obtain herr | ⟨herr, halign⟩ := await_idle_cases Config.params job rest hend
    · simp [herr]
    · exact ⟨.inr herr, fun _ => ⟨halign, hb, hgrows⟩⟩

end Sys2Proof.Proofs
end

section
/-! SUPPORT. The step that takes a reset (R162, R163). -/

namespace Sys2Proof.Machine

/-- The step that takes a reset resets the block; the later host actions stay to come. -/
theorem step_reset {s : State} {rest : List HostAction} (hpos : s.pos = .idle) (hin : s.inbox = .reset :: rest) :
    step s = .next (resetBlock { s with inbox := rest }) :=
  step_hostAction hpos hin

end Sys2Proof.Machine

namespace Sys2Proof.Proofs

open Sys2Proof Sys2Proof.Machine

/-- Settles O11: the step is `resetBlock`, whose field laws give each register and log its reset value. -/
theorem resetTakesResetValues : Obligations.ResetTakesResetValues := by
  unfold Obligations.ResetTakesResetValues
  intro s rest hpos hin
  refine ⟨_, step_reset hpos hin, ?_⟩
  simp [ErrCode.code, Packer.empty]

end Sys2Proof.Proofs
end

section
/-! PROOFS. Decoding and encoding (R59 to R64, R74): a word is the pair of its OP and ARG, a command's word decodes to
it, and no other word does. -/

namespace Sys2Proof

/-! ### A word is its OP and its ARG (R60) -/

theorem word_ext {v w : Word} (hop : opOf v = opOf w) (harg : argOf v = argOf w) : v = w := by
  have hop : v.toNat / 256 = w.toNat / 256 := by rw [← opOf_toNat, hop, opOf_toNat]
  have harg : v.toNat % 256 = w.toNat % 256 := by rw [← argOf_toNat, harg, argOf_toNat]
  exact BitVec.eq_of_toNat_eq (by omega)

@[simp] theorem opOf_encode_setAlign (arg : BitVec 8) : opOf (encode (.setAlign arg)) = 0x04 :=
  BitVec.extractLsb'_append_eq_left

@[simp] theorem argOf_encode_setAlign (arg : BitVec 8) : argOf (encode (.setAlign arg)) = arg :=
  BitVec.extractLsb'_append_eq_right

/-- A word is SET_ALIGN's exactly when its OP is 4 and its ARG is the operand (R61, R62). -/
theorem encode_setAlign_eq_iff {arg : BitVec 8} {w : Word} :
    encode (.setAlign arg) = w ↔ w.toNat / 256 = 0x04 ∧ arg.toNat = w.toNat % 256 := by
  rw [← opOf_toNat, ← argOf_toNat]
  constructor
  · rintro rfl
    simp
  · rintro ⟨hop, harg⟩
    have hop : opOf w = 0x04 := BitVec.eq_of_toNat_eq hop
    have harg : arg = argOf w := BitVec.eq_of_toNat_eq harg
    exact word_ext (by rw [opOf_encode_setAlign, hop]) (by rw [argOf_encode_setAlign, harg])

/-! ### Decode and encode are inverse (R61, R64) -/

theorem decode_encode (i : Instr) : decode (encode i) = .ok i := by
  cases i with
  | convert => rfl
  | encode => rfl
  | printImage => rfl
  | setAlign arg => exact decode_setAlign arg

theorem argOf_of_needZeroArg {w : Word} {i j : Instr} (h : needZeroArg w i = .ok j) : argOf w = 0 := by
  unfold needZeroArg at h
  split at h
  · assumption
  · cases h

/-- A word that decodes to a command is its word: OP is the one of the matching row, and ARG is 0 or the operand. -/
theorem encode_of_decode {w : Word} {i : Instr} (h : decode w = .ok i) : encode i = w := by
  unfold decode at h
  split at h
  case h_4 hop =>
    obtain rfl := Except.ok.inj h
    have hop : opOf w = 0x04 := BitVec.eq_of_toNat_eq hop
    exact word_ext ((opOf_encode_setAlign _).trans hop.symm) (argOf_encode_setAlign _)
  case h_5 => cases h
  all_goals
    rename_i hop
    obtain rfl := needZeroArg_ok h
    exact word_ext (BitVec.eq_of_toNat_eq hop).symm (argOf_of_needZeroArg h).symm

theorem decode_eq_ok_iff {w : Word} {i : Instr} : decode w = .ok i ↔ w = encode i :=
  ⟨fun h => (encode_of_decode h).symm, fun h => h ▸ decode_encode i⟩

/-- Every operand is legal in its type. -/
theorem instr_wf (i : Instr) : i.wf = true := by cases i <;> rfl

/-- Exactly the words outside the opcode map are rejected (R63). -/
theorem decode_error_iff {w : Word} : (∃ e, decode w = .error e) ↔
    w.toNat / 256 = 0 ∨ 0x05 ≤ w.toNat / 256 ∨ (w.toNat / 256 ≤ 0x03 ∧ w.toNat % 256 ≠ 0) := by
  refine ⟨?_, decode_of_illegal⟩
  rintro ⟨e, he⟩
  by_contra hlegal
  obtain ⟨i, rfl⟩ : ∃ i, w = encode i := by
    obtain h | h | h | h : w.toNat = 0x0100 ∨ w.toNat = 0x0200 ∨ w.toNat = 0x0300 ∨ w.toNat / 256 = 0x04 := by omega
    · exact ⟨.convert, BitVec.eq_of_toNat_eq h⟩
    · exact ⟨.encode, BitVec.eq_of_toNat_eq h⟩
    · exact ⟨.printImage, BitVec.eq_of_toNat_eq h⟩
    · exact ⟨.setAlign (argOf w), (encode_setAlign_eq_iff.mpr ⟨h, argOf_toNat w⟩).symm⟩
  rw [decode_encode] at he
  cases he

/-! ### The assembler (R74) -/

/-- `SET_ALIGN <n>` assembles to the word of SET_ALIGN with operand n. -/
theorem assemble_setAlignNum {n : Nat} (hn : n < 256) :
    assemble (.setAlignNum n) = encode (.setAlign (BitVec.ofNat 8 n)) := by
  have hlow : BitVec.ofNat 16 n = (BitVec.ofNat 8 n).setWidth' (by decide) := by
    refine BitVec.eq_of_toNat_eq ?_
    simp only [BitVec.toNat_ofNat, BitVec.toNat_setWidth']
    omega
  change 0x0400 ||| BitVec.ofNat 16 n = (0x04 : BitVec 8) ++ BitVec.ofNat 8 n
  rw [BitVec.append_def, hlow]
  rfl

end Sys2Proof

namespace Sys2Proof.Proofs

open Sys2Proof

/-- Settles O1: a command's word decodes to it, and OP and ARG of a word that decodes are those of the command's
word. -/
theorem decodeEncodeAgree : Obligations.DecodeEncodeAgree := by
  unfold Obligations.DecodeEncodeAgree
  exact ⟨fun i _ => decode_encode i, fun _ i h => ⟨instr_wf i, encode_of_decode h⟩⟩

/-- Settles O2: each command is decoded from its own word alone, and the words left are those of R63. -/
theorem decodeByOpAndArg : Obligations.DecodeByOpAndArg := by
  unfold Obligations.DecodeByOpAndArg
  refine fun w => ⟨decode_eq_ok_iff, decode_eq_ok_iff, decode_eq_ok_iff, fun a => ?_, decode_error_iff⟩
  rw [decode_eq_ok_iff, eq_comm, encode_setAlign_eq_iff]

/-- Settles O3: the five words are those of their commands; the three next to them have no row of the opcode map. -/
theorem opcodeMapWordsDecode : Obligations.OpcodeMapWordsDecode := by
  unfold Obligations.OpcodeMapWordsDecode
  exact ⟨decode_encode .convert, decode_encode .encode, decode_encode .printImage, decode_encode (.setAlign 2),
    decode_encode (.setAlign 255), decode_of_nonzeroArg (by decide) (by decide), decode_of_reservedOp (by decide),
    decode_of_reservedOp (by decide)⟩

/-- Settles O4: every command line assembles to its command's word. -/
theorem assembledLinesDecode : Obligations.AssembledLinesDecode := by
  unfold Obligations.AssembledLinesDecode
  refine ⟨decode_encode .convert, decode_encode .encode, decode_encode .printImage, rfl, rfl, rfl, fun n hn => ?_,
    fun w hw => Nat.mod_eq_of_lt (of_decide_eq_true hw)⟩
  rw [assemble_setAlignNum (of_decide_eq_true hn), decode_encode]

end Sys2Proof.Proofs
end

section
/-! PROOFS. The invariant of the block (R27, R31, R32, R47, R146): what ends a command, a write call and its answer keep
of it, and from these that every command and every step keeps it. -/

namespace Sys2Proof.Machine

open Sys2Proof

/-! ### What the invariant reads -/

/-- The invariant reads nothing of the host's side, ALIGN, SAVED_ALIGN, ERR, ADV, SWITCH or the answers to come. -/
theorem Inv.congr {s t : State} (h : Inv s) (hpw : t.pw = s.pw) (hph : t.ph = s.ph) (hbuf : t.bitBuf = s.bitBuf)
    (hpacker : t.packer = s.packer) (hchan : t.chan = s.chan) (hpos : t.pos = s.pos) (hb : t.bvalid = s.bvalid)
    (hadv : t.advlog = s.advlog) : Inv t where
  pwAligned := hpw ▸ h.pwAligned
  pwBound := hpw ▸ h.pwBound
  bufHolds := by rw [hpw, hph, hbuf]; exact h.bufHolds
  bufForm := hbuf ▸ h.bufForm
  packerOk := hpacker ▸ h.packerOk
  callsOk := hchan ▸ h.callsOk
  answered := by simpa only [CallsAnswered, hpos, hchan] using h.answered
  position := by
    simpa only [PositionOk, hpos, hpacker, hb, rasterParts, groupCount, bodyLen, widthBytes, hpw, hph] using h.position
  advice := hadv ▸ h.advice

theorem Inv.raise {s : State} (h : Inv s) (hpos : s.pos = .idle) (e : ErrCode) : Inv (raise e s) :=
  h.congr rfl rfl rfl rfl rfl hpos.symm rfl rfl

theorem Inv.succeed {s : State} (h : Inv s) (hpos : s.pos = .idle) : Inv (succeed s) :=
  h.congr rfl rfl rfl rfl rfl hpos.symm rfl rfl

/-- Between commands the packer is empty (R31). -/
theorem Inv.packer_empty {s : State} (h : Inv s) (hpos : s.pos = .idle) : s.packer = .empty := by
  simpa only [PositionOk, hpos] using h.position

/-- Between commands every call is answered (R47). -/
theorem Inv.all_answered {s : State} (h : Inv s) (hpos : s.pos = .idle) : ∀ c ∈ s.chan, c.response ≠ none := by
  simpa only [CallsAnswered, hpos] using h.answered

/-- A waiting block waits for the answer to the last call alone (R47, R55). -/
theorem Inv.last_unanswered {s : State} {job : Job} {rest : List Part} (h : Inv s) (hpos : s.pos = .waiting job rest) :
    ∃ earlier bytes, s.chan = earlier ++ [⟨bytes, none⟩] ∧ ∀ c ∈ earlier, c.response ≠ none := by
  simpa only [CallsAnswered, hpos] using h.answered

theorem inv_reset : Inv State.reset where
  pwAligned := rfl
  pwBound := Nat.zero_le _
  bufHolds := Nat.zero_le _
  bufForm := reset_memory_wf
  packerOk := ⟨rfl, Nat.zero_le _⟩
  callsOk := fun _ hc => absurd hc List.not_mem_nil
  answered := fun _ hc => absurd hc List.not_mem_nil
  position := rfl
  advice := fun _ he => absurd he List.not_mem_nil

theorem inv_resetBlock (s : State) : Inv (resetBlock s) := inv_reset.congr rfl rfl rfl rfl rfl rfl rfl rfl

/-! ### Offering a write call (R47) -/

/-- A raster print's body group of a call that is made holds at least one byte (R100, R101). -/
theorem groupLen_pos {s : State} {g : Nat} (hg : g < groupCount s) : 0 < groupLen s g := by
  simp only [groupCount, groupLen, Config.group] at *
  omega

/-- Every call of a raster print carries at least one byte (R47). -/
theorem partBytes_ne_nil {s : State} {part : Part} (hk : s.packer = .empty) (hpart : part ∈ rasterParts s) :
    partBytes Config.params s part ≠ [] := by
  cases part with
  | center => exact alignCmd_ne_nil .center
  | marker => exact marker_ne_nil
  | header => exact List.cons_ne_nil _ _
  | group g =>
    have hg : g < groupCount s := by simpa [rasterParts] using hpart
    have hpos := groupLen_pos hg
    simp only [partBytes, packGroup_empty s g hk, ne_eq, List.map_eq_nil_iff, List.range_eq_nil]
    omega
  | restore => exact alignCmd_ne_nil _
  | align a => exact alignCmd_ne_nil _

/-- A body call holds the packer at one group of at most 4 bytes (R31). -/
theorem partPacker_ok {s : State} (hk : s.packer = .empty) (part : Part) :
    (partPacker s part).bits = [] ∧ (partPacker s part).group.length ≤ 4 := by
  have hempty : s.packer.bits = [] ∧ s.packer.group.length ≤ 4 := hk ▸ ⟨rfl, Nat.zero_le 4⟩
  cases part with
  | group g =>
    simp only [partPacker, packGroup_empty s g hk, groupLen, Config.group, List.length_map, List.length_range]
    exact ⟨trivial, by omega⟩
  | center | marker | header | restore | align => exact hempty

/-- A block that offers a call and waits for its answer keeps the invariant. -/
theorem Inv.offer {s : State} {job : Job} {part : Part} {rest : List Part} (h : Inv s) (hpos : s.pos = .idle)
    (hbytes : partBytes Config.params s part ≠ [])
    (hposition : PositionOk { Machine.offer Config.params part s with pos := .waiting job rest }) :
    Inv { Machine.offer Config.params part s with pos := .waiting job rest } where
  pwAligned := h.pwAligned
  pwBound := h.pwBound
  bufHolds := h.bufHolds
  bufForm := h.bufForm
  packerOk := partPacker_ok (h.packer_empty hpos) part
  callsOk := by
    intro c hc
    obtain hc | rfl : c ∈ s.chan ∨ c = ⟨partBytes Config.params s part, none⟩ := by simpa using hc
    · exact h.callsOk c hc
    · exact ⟨hbytes, nofun⟩
  answered := ⟨s.chan, partBytes Config.params s part, rfl, h.all_answered hpos⟩
  position := hposition
  advice := h.advice

/-- A raster print's next call: what is left to make is the tail of its calls (R28). -/
theorem Inv.offer_raster {s : State} {done rest : List Part} {part : Part} (h : Inv s) (hpos : s.pos = .idle)
    (hb : s.bvalid = false) (hparts : rasterParts s = done ++ part :: rest) :
    Inv { Machine.offer Config.params part s with pos := .waiting .raster rest } := by
  refine h.offer hpos (partBytes_ne_nil (h.packer_empty hpos) (by simp [hparts])) ?_
  exact ⟨hb, done ++ [part], by simp, hparts.trans (by simp)⟩

theorem Inv.offer_setAlign {s : State} (h : Inv s) (hpos : s.pos = .idle) (a : Align) :
    Inv { Machine.offer Config.params (.align a) s with pos := .waiting (.setAlign a) [] } :=
  h.offer hpos (alignCmd_ne_nil a) ⟨h.packer_empty hpos, rfl⟩

/-! ### The answer to a write call (R47, R48) -/

/-- An answered call is well formed: a failed one delivered at most all of its bytes (R48). -/
theorem callOk_respond {bytes : List Byte} (a : Answer) (h : bytes ≠ []) : CallOk ⟨bytes, some (respond a bytes)⟩ := by
  refine ⟨h, fun k hk => ?_⟩
  cases a with
  | accept => cases hk
  | fail j =>
    injection hk with hk
    injection hk with hk
    exact hk ▸ Nat.min_le_right _ _

/-- An answer empties a raster print's packer; SET_ALIGN's is empty throughout (R31). -/
theorem Inv.answeredPacker_empty {s : State} {job : Job} {rest : List Part} (h : Inv s)
    (hpos : s.pos = .waiting job rest) : answeredPacker job s.packer = .empty := by
  cases job with
  | raster => rfl
  | setAlign a =>
    have hposition := h.position
    simp only [PositionOk, hpos] at hposition
    exact hposition.1

/-- Once the last call is answered no call is pending, and the block may be IDLE. -/
theorem Inv.answered_idle {s : State} {job : Job} {rest : List Part} (h : Inv s) (hpos : s.pos = .waiting job rest)
    (a : Answer) (more : List Answer) : Inv { Machine.answered job a more s with pos := .idle } := by
  obtain ⟨earlier, bytes, hchan, hearlier⟩ := h.last_unanswered hpos
  have hsettled : settleLast a s.chan = earlier ++ [⟨bytes, some (respond a bytes)⟩] := by
    rw [hchan, settleLast_append]
  have hempty := h.answeredPacker_empty hpos
  have hcalls := h.callsOk
  simp only [hchan, List.mem_append, List.mem_singleton] at hcalls
  exact {
    pwAligned := h.pwAligned
    pwBound := h.pwBound
    bufHolds := h.bufHolds
    bufForm := h.bufForm
    packerOk := by simp [hempty, Packer.empty]
    callsOk := by
      simp only [answered_chan, hsettled, List.mem_append, List.mem_singleton]
      rintro c (hc | rfl)
      · exact hcalls c (.inl hc)
      · exact callOk_respond a (hcalls _ (.inr rfl)).1
    answered := by
      simp only [CallsAnswered, answered_chan, hsettled, List.mem_append, List.mem_singleton]
      rintro c (hc | rfl)
      · exact hearlier c hc
      · exact nofun
    position := hempty
    advice := h.advice }

/-- A waiting block keeps the invariant however its answers come: each accepted call is followed by the next one of
the command, and the command ends with its last call or at a failed one. -/
theorem Inv.await {s : State} {job : Job} {rest : List Part}
    (h : Inv { s with pos := .waiting job rest }) : Inv (await Config.params job rest s) := by
  induction rest, s using await.induct Config.params job with
  | case1 rest s ha => rwa [await_unanswered _ _ _ _ ha]
  | case2 rest s k more ha =>
    rw [await_fail _ _ _ _ _ _ ha]
    exact (h.answered_idle rfl (.fail k) more).raise rfl _
  | case3 s more ha =>
    rw [await_accept_last _ _ _ _ ha]
    have hidle := h.answered_idle rfl .accept more
    cases job with
    | raster => exact hidle.succeed rfl
    | setAlign a => exact (hidle.succeed rfl).congr rfl rfl rfl rfl rfl rfl rfl rfl
  | case4 s more ha part rest ih =>
    rw [await_accept_next _ _ _ _ _ _ ha]
    have hidle := h.answered_idle rfl .accept more
    have hposition := h.position
    cases job with
    | raster =>
      obtain ⟨hb, done, -, hparts⟩ := hposition
      exact ih ((hidle.offer_raster rfl hb hparts).congr rfl rfl rfl rfl rfl rfl rfl rfl)
    | setAlign a => cases hposition.2

/-! ### Commands -/

/-- The converted image fits BitBuf, and its PW and the advisory are of an accepted width (R27, R32, R82, R146). -/
theorem Inv.convertImage {s : State} (h : Inv s) (hpos : s.pos = .idle) (hh : s.imgH.toNat ≤ 255)
    (hw : s.imgW.toNat ≤ 2016) : Inv (convertImage Config.params s) := by
  have hpw := convertImage_pw_toNat Config.params hw
  have hph := convertImage_ph_toNat Config.params hh
  have hle := paddedWidth_le s.imgW.toNat hw
  have hlen := emitted_length Config.params s
  have hcapacity : (emitted Config.params s).1.length ≤ Config.bitBufCapacity := by
    rw [hlen, Nat.mul_comm]
    exact Nat.mul_le_mul hle hh
  exact {
    pwAligned := by rw [hpw]; exact paddedWidth_mod _
    pwBound := by rwa [hpw]
    bufHolds := by
      rw [hpw, hph, convertImage_bitBuf_emitted, load_length, hlen, Nat.mul_comm]
      exact le_max_left _ _
    bufForm := load_wf _ _ h.bufForm hcapacity
    packerOk := h.packerOk
    callsOk := h.callsOk
    answered := h.answered
    position := by simpa only [PositionOk, convertImage_pos, convertImage_packer, hpos] using h.packer_empty hpos
    advice := by
      simp only [convertImage_advlog, List.mem_append]
      rintro e (he | he)
      · exact h.advice e he
      · obtain hwide | hnarrow : 512 < s.imgW.toNat ∨ s.imgW.toNat ≤ 512 := by omega
        · rw [(adv_of_wide hwide).2, List.mem_singleton] at he
          exact ⟨s.imgW, he, hwide, hw⟩
        · rw [(adv_of_narrow hnarrow).2] at he
          cases he }

/-- ENCODE's start leaves an IDLE block with an empty packer (R98). -/
theorem Inv.beginRaster {s : State} (h : Inv s) (hpos : s.pos = .idle) : Inv (beginRaster s) where
  pwAligned := h.pwAligned
  pwBound := h.pwBound
  bufHolds := h.bufHolds
  bufForm := h.bufForm
  packerOk := ⟨rfl, Nat.zero_le _⟩
  callsOk := h.callsOk
  answered := h.answered
  position := by simp only [PositionOk, beginRaster_pos, beginRaster_packer, hpos]
  advice := h.advice

theorem Inv.runConvert {s : State} (h : Inv s) (hpos : s.pos = .idle) : Inv (runConvert Config.params s) := by
  obtain ⟨-, hrun⟩ | ⟨-, -, hrun⟩ | ⟨hh, hw, hrun⟩ := runConvert_cases Config.params s <;> rw [hrun]
  · exact h.raise hpos _
  · exact h.raise hpos _
  · exact (h.convertImage hpos hh hw).succeed hpos

theorem Inv.runEncode {s : State} (h : Inv s) (hpos : s.pos = .idle) : Inv (runEncode Config.params s) := by
  obtain ⟨-, hrun⟩ | ⟨-, rest, hparts, hrun⟩ := runEncode_cases Config.params s <;> rw [hrun]
  · exact h.raise hpos _
  · exact ((h.beginRaster hpos).offer_raster (done := []) hpos rfl hparts).await

theorem Inv.runPrintImage {s : State} (h : Inv s) (hpos : s.pos = .idle) : Inv (runPrintImage Config.params s) := by
  obtain ⟨-, hrun⟩ | ⟨-, -, hrun⟩ | ⟨hh, hw, hrun⟩ := runPrintImage_cases Config.params s <;> rw [hrun]
  · exact h.raise hpos _
  · exact h.raise hpos _
  · exact (h.convertImage hpos hh hw).runEncode hpos

/-- A SET_ALIGN raises for an argument outside the vocabulary; otherwise it has offered its one call (R116). -/
theorem runSetAlign_cases (p : Params) (arg : BitVec 8) (s : State) :
    (2 < arg.toNat ∧ runSetAlign p arg s = raise .invalidStyleValue s) ∨
    (∃ a : Align, arg.toNat = a.code.toNat ∧
      runSetAlign p arg s = await p (.setAlign a) [] (offer p (.align a) s)) := by
  by_cases hout : 2 < arg.toNat
  · exact .inl ⟨hout, runSetAlign_of_outside p s hout⟩
  · obtain ⟨a, ha⟩ : ∃ a : Align, arg.toNat = a.code.toNat := by
      obtain h | h | h : arg.toNat = 0 ∨ arg.toNat = 1 ∨ arg.toNat = 2 := by omega
      · exact ⟨.left, h⟩
      · exact ⟨.center, h⟩
      · exact ⟨.right, h⟩
    exact .inr ⟨a, ha, runSetAlign_offers p s ha⟩

theorem Inv.runSetAlign {s : State} (h : Inv s) (hpos : s.pos = .idle) (arg : BitVec 8) :
    Inv (runSetAlign Config.params arg s) := by
  obtain ⟨-, hrun⟩ | ⟨a, -, hrun⟩ := runSetAlign_cases Config.params arg s <;> rw [hrun]
  · exact h.raise hpos _
  · exact (h.offer_setAlign hpos a).await

/-- Every command that answers a next state keeps the invariant. -/
theorem Inv.exec {i : Instr} {s t : State} (h : Inv s) (hexec : exec i s = .next t) : Inv t := by
  cases i with
  | convert =>
    obtain ⟨hpos, rfl⟩ := onIdle_next hexec
    exact h.runConvert hpos
  | encode =>
    obtain ⟨hpos, rfl⟩ := onIdle_next hexec
    exact h.runEncode hpos
  | printImage =>
    obtain ⟨hpos, rfl⟩ := onIdle_next hexec
    exact h.runPrintImage hpos
  | setAlign arg =>
    obtain ⟨hpos, rfl⟩ := onIdle_next hexec
    exact h.runSetAlign hpos arg

/-- Every host action that answers a next state keeps the invariant. -/
theorem Inv.hostStep {a : HostAction} {s t : State} (h : Inv s) (hpos : s.pos = .idle)
    (hstep : hostStep a s = .next t) : Inv t := by
  obtain ⟨w, i, -, -, hexec⟩ | ⟨w, e, -, -, rfl⟩ | ⟨v, -, rfl⟩ | ⟨v, -, rfl⟩ | ⟨g, -, rfl⟩ | ⟨-, rfl⟩ | ⟨-, rfl⟩ :=
    hostStep_cases hpos hstep
  · exact h.exec hexec
  · exact h.raise hpos _
  on_goal 4 => exact h
  on_goal 4 => exact inv_resetBlock s
  all_goals exact h.congr rfl rfl rfl rfl rfl rfl rfl rfl

end Sys2Proof.Machine

namespace Sys2Proof.Proofs

open Sys2Proof Sys2Proof.Machine

/-- Settles O47: a step is a late answer to a waiting command, nothing, or a host action at IDLE, and each keeps the
invariant. -/
theorem stepKeepsBlockInvariant : Obligations.StepKeepsBlockInvariant := by
  unfold Obligations.StepKeepsBlockInvariant
  intro s t h hstep
  obtain ⟨job, rest, hpos, -, rfl⟩ | ⟨-, -, rfl⟩ | ⟨hpos, a, rest, -, hhost⟩ := step_cases hstep
  · exact (h.congr (t := { s with pos := .waiting job rest }) rfl rfl rfl rfl rfl hpos.symm rfl rfl).await
  · exact h
  · exact (h.congr (t := { s with inbox := rest }) rfl rfl rfl rfl rfl rfl rfl rfl).hostStep hpos hhost

/-- Settles O48: at reset PW and PH are 0 and every log, the packer and BitBuf are empty. -/
theorem resetMeetsBlockInvariant : Obligations.ResetMeetsBlockInvariant := inv_reset

/-- Settles O31: PW is a multiple of 32 and at most 2016, so PW / 8 is exact and fits its byte. -/
theorem headerCountsExact : Obligations.HeaderCountsExact := by
  unfold Obligations.HeaderCountsExact
  intro s h
  have haligned := h.pwAligned
  have hbound := h.pwBound
  refine ⟨BitVec.ofNat 8 (widthBytes s), s.ph, rfl, ?_, ?_, rfl⟩ <;>
    simp only [widthBytes, BitVec.toNat_ofNat] <;> omega

end Sys2Proof.Proofs
end

section
/-! PROOFS. The host's ports and the step (R37, R59, R141, R159, R174): which step a block takes at IDLE and while it
waits. -/

namespace Sys2Proof.Machine

open Sys2Proof

/-! ### Steps, by what the block has to do -/

theorem step_of_no_action {s : State} (hpos : s.pos = .idle) (hin : s.inbox = []) : step s = .next s := by
  simp only [step, hpos, hin]

/-- A waiting block has no step until the channel answers (R174). -/
theorem step_of_unanswered {s : State} {job : Job} {rest : List Part} (hpos : s.pos = .waiting job rest)
    (ha : s.answers = []) : step s = .fault .channelUnanswered := by
  simp only [step, hpos, ha]

/-- An answer resumes the waiting command (R13). -/
theorem step_of_answers {s : State} {job : Job} {rest : List Part} (hpos : s.pos = .waiting job rest)
    (ha : s.answers ≠ []) : step s = .next (await Config.params job rest s) := by
  cases h : s.answers with
  | nil => exact absurd h ha
  | cons a more => simp only [step, hpos, h]

/-- A command word at IDLE is run as the command it decodes to (R61). -/
theorem step_command {s : State} {w : Word} {rest : List HostAction} {i : Instr} (hpos : s.pos = .idle)
    (hin : s.inbox = .command w :: rest) (hd : decode w = .ok i) : step s = exec i { s with inbox := rest } := by
  rw [step_hostAction hpos hin]
  simp only [hostStep, issue, hd]

/-! ### Commands -/

/-- At IDLE every command answers a next state (R151). -/
theorem exec_idle_next (i : Instr) {s : State} (hpos : s.pos = .idle) : ∃ t, exec i s = .next t := by
  cases i with
  | convert => exact ⟨_, exec_convert s hpos⟩
  | encode => exact ⟨_, exec_encode s hpos⟩
  | printImage => exact ⟨_, exec_printImage s hpos⟩
  | setAlign arg => exact ⟨_, exec_setAlign arg s hpos⟩

/-- While a command waits every command is refused (R59). -/
theorem exec_of_waiting (i : Instr) {s : State} {job : Job} {rest : List Part} (hpos : s.pos = .waiting job rest) :
    exec i s = .refused .commandWhileBusy := by
  cases i <;> simp only [exec, execConvert, execEncode, execPrintImage, execSetAlign, onIdle_waiting s _ hpos]

/-- A 16-bit word fills its command word. -/
theorem tableWord_toNat (w : Word) : tableWord 16 w.toNat = w := by
  rw [tableWord, Nat.mod_eq_of_lt w.isLt, BitVec.ofNat_toNat, BitVec.setWidth_eq]

/-! ### The status port (R37) -/

theorem readStatus_idle {s : State} (hpos : s.pos = .idle) :
    readStatus s = some ⟨s.align.code, s.err.code, s.adv, s.bvalid, s.pw, s.ph⟩ := by
  simp only [readStatus, hpos]

theorem readBit_idle {s : State} (hpos : s.pos = .idle) (i : Nat) :
    readBit s i = if s.bvalid ∧ i < s.pw.toNat * s.ph.toNat then some (bitAt s i) else none := by
  simp only [readBit, hpos]

end Sys2Proof.Machine

namespace Sys2Proof.Proofs

open Sys2Proof Sys2Proof.Machine

/-- Settles O5: the step takes the word from the inbox and issues it. -/
theorem stepRunsDecodedCommand : Obligations.StepRunsDecodedCommand := by
  unfold Obligations.StepRunsDecodedCommand
  exact fun _ _ _ _ => step_command

/-- Settles O7: the placed word is the command's own, so the next step decodes it back to the command. -/
theorem fetchedWordRunsNext : Obligations.FetchedWordRunsNext := by
  unfold Obligations.FetchedWordRunsNext
  intro s i
  refine step_command (w := tableWord 16 (encode i).toNat) rfl rfl ?_
  rw [tableWord_toNat, decode_encode]

/-- Settles O8: each of the three actions is one step of its own effect. -/
theorem hostWritesDescriptorAndImage : Obligations.HostWritesDescriptorAndImage := by
  unfold Obligations.HostWritesDescriptorAndImage
  exact fun _ _ hpos => ⟨fun _ hin => step_hostAction hpos hin, fun _ hin => step_hostAction hpos hin,
    fun _ hin => step_hostAction hpos hin⟩

/-- Settles O10: the port answers at IDLE alone, each register by its code and the bits of an unconsumed bitstream. -/
theorem statusPortShowsRegisters : Obligations.StatusPortShowsRegisters := by
  unfold Obligations.StatusPortShowsRegisters
  intro s
  refine ⟨fun hpos => ⟨⟨_, readStatus_idle hpos, ?_, ?_, rfl, rfl, rfl, rfl⟩, fun i => ⟨fun hread => ?_,
    fun hno => ?_⟩⟩, fun hpos => ?_⟩
  · cases s.align <;> rfl
  · cases s.err <;> rfl
  · rw [readBit_idle hpos, if_pos hread]
  · rw [readBit_idle hpos, if_neg]
    rintro ⟨hb, hi⟩
    obtain hb' | hi' := hno
    · simp [hb] at hb'
    · omega
  · cases h : s.pos with
    | idle => exact absurd h hpos
    | waiting job rest => simp only [readStatus, readBit, h, implies_true, and_self]

/-- Settles O12: with nothing to do the step answers the state itself. -/
theorem idleBlockKeepsState : Obligations.IdleBlockKeepsState := by
  unfold Obligations.IdleBlockKeepsState
  exact fun _ => step_of_no_action

/-- Settles O13: every meaning is run at IDLE only. -/
theorem commandRefusedWhileWaiting : Obligations.CommandRefusedWhileWaiting := by
  unfold Obligations.CommandRefusedWhileWaiting
  intro i s hpos
  cases h : s.pos with
  | idle => exact absurd h hpos
  | waiting job rest => exact exec_of_waiting i h

/-- Settles O14: the step of a waiting block is its answer's. -/
theorem unansweredCallHangs : Obligations.UnansweredCallHangs := by
  unfold Obligations.UnansweredCallHangs
  exact fun _ _ _ => step_of_unanswered

/-- Settles O15: a word is a command, which has a next state at IDLE, or illegal, which raises. -/
theorem everyWordHasANextState : Obligations.EveryWordHasANextState := by
  unfold Obligations.EveryWordHasANextState
  refine fun s hpos => ⟨fun i => exec_idle_next i hpos, fun w rest hin => ?_⟩
  cases hd : decode w with
  | ok i =>
    rw [step_command hpos hin hd]
    exact exec_idle_next i hpos
  | error e =>
    rw [step_hostAction hpos hin]
    exact ⟨_, issue_of_error (by exact hpos) hd⟩

end Sys2Proof.Proofs
end

section
/-! PROOFS. The dithered bitstream of a successful CONVERT (R80 to R90): the padded width, every bit, and SWITCH. -/

namespace Sys2Proof.Machine

open Sys2Proof

/-- A CONVERT that ends without error has converted an image that passes the checks (R79). -/
theorem runConvert_succeeds {p : Params} {s : State} (herr : (runConvert p s).err = .none) :
    s.imgH.toNat ≤ 255 ∧ s.imgW.toNat ≤ 2016 ∧ runConvert p s = succeed (convertImage p s) := by
  obtain ⟨-, h⟩ | ⟨-, -, h⟩ | hfits := runConvert_cases p s
  · rw [h] at herr
    cases herr
  · rw [h] at herr
    cases herr
  · exact hfits

theorem exec_convert_succeeds {s t : State} (hexec : exec .convert s = .next t) (herr : t.err = .none) :
    s.imgH.toNat ≤ 255 ∧ s.imgW.toNat ≤ 2016 ∧ t = succeed (convertImage Config.params s) := by
  obtain ⟨-, rfl⟩ := onIdle_next hexec
  exact runConvert_succeeds herr

/-- PW is the image width and its border (R80, R81). -/
theorem convertImage_pw_border (p : Params) {s : State} (hw : s.imgW.toNat ≤ 2016) :
    (convertImage p s).pw.toNat = s.imgW.toNat + (32 - s.imgW.toNat % 32) % 32 := by
  rw [convertImage_pw_toNat p hw, paddedWidth_eq, border_eq]

/-! ### Levels (R84, R86) -/

/-- A midtone takes the switch. -/
theorem pixbit_of_midtone {lum : Nat} (hlo : 256 ≤ lum) (hhi : lum ≤ 510) (switch : Bool) :
    pixbit lum switch = switch := by
  rw [pixbit, if_neg (by simp only [Config.t1]; omega), if_pos (by exact hhi)]

/-- The rule of pixel number k is its level under the switch toggled k + 1 times (R89). -/
theorem ruleBit_eq (px : Pixel) (k : Nat) :
    Claims.ruleBit px k = pixbit (luminance px) (Config.params.switchInit ^^ decide ((k + 1) % 2 = 1)) := rfl

/-- For an odd width pixel numbers alternate along rows and columns; for an even one along rows alone (R90). -/
theorem pixel_number_even_iff (w x y : Nat) :
    (y * w + x + 1) % 2 = 1 ↔ if w % 2 = 1 then (x + y) % 2 = 0 else x % 2 = 0 := by
  have hsplit : y * w = 2 * (y * (w / 2)) + y * (w % 2) := by
    calc y * w = y * (2 * (w / 2) + w % 2) := by rw [Nat.div_add_mod]
      _ = 2 * (y * (w / 2)) + y * (w % 2) := by ring
  obtain hw | hw : w % 2 = 0 ∨ w % 2 = 1 := by omega
  · rw [hw, Nat.mul_zero] at hsplit
    rw [if_neg (by omega)]
    omega
  · rw [hw, Nat.mul_one] at hsplit
    rw [if_pos hw]
    omega

/-- Pixel (x, y) of the image stands behind the left padding of its row (R87). -/
theorem bitAt_convertImage_pixel (p : Params) (s : State) {x y : Nat} (hx : x < s.imgW.toNat)
    (hy : y < s.imgH.toNat) :
    bitAt (convertImage p s) (y * paddedWidth s.imgW.toNat + leftPad s.imgW.toNat + x) =
      pixbit (luminance (pixelAt s.image x y)) (p.switchInit ^^ decide ((y * s.imgW.toNat + x + 1) % 2 = 1)) := by
  have hc : leftPad s.imgW.toNat + x < paddedWidth s.imgW.toNat := by
    rw [paddedWidth]
    omega
  rw [Nat.add_assoc, bitAt_convertImage_row p s hy hc, if_neg (by omega), Nat.add_sub_cancel_left]

end Sys2Proof.Machine

namespace Sys2Proof.Proofs

open Sys2Proof Sys2Proof.Machine

/-- Settles O18: PW is the image width and the border that rounds it up to the next multiple of 32. -/
theorem paddedWidthLaws : Obligations.PaddedWidthLaws := by
  unfold Obligations.PaddedWidthLaws
  intro s t hexec herr
  obtain ⟨hh, hw, rfl⟩ := exec_convert_succeeds hexec herr
  have hpw := convertImage_pw_border Config.params hw
  rw [← BitVec.toNat_inj, succeed_pw, succeed_ph, hpw]
  exact ⟨by omega, by omega, by omega, by omega, by omega, by omega, convertImage_ph_toNat _ hh⟩

/-- Settles O19: row y's columns are those `bitAt_convertImage_row` gives, with the left padding the floor half of the
border. -/
theorem convertEmitsDitheredRows : Obligations.ConvertEmitsDitheredRows := by
  unfold Obligations.ConvertEmitsDitheredRows
  intro s w h b hpos hwidth hheight hh hw hb
  subst hwidth hheight
  have hborder : border s.imgW.toNat = b := by rw [border_eq, hb]
  have hpw : paddedWidth s.imgW.toNat = s.imgW.toNat + b := by rw [paddedWidth_eq, hborder]
  have hlp : leftPad s.imgW.toNat = b / 2 := by rw [leftPad_eq, hborder]
  have hlen := emitted_length Config.params s
  rw [Nat.mul_comm, hpw] at hlen
  refine ⟨_, exec_convert s hpos, ?_⟩
  rw [runConvert_of_fits _ hh hw]
  refine ⟨(convertImage_pw_toNat Config.params hw).trans hpw, convertImage_ph_toNat Config.params hh, rfl, rfl, ?_,
    fun y c hy hc => ?_, fun i hi => ?_⟩
  · rw [succeed_bitBuf, convertImage_bitBuf_emitted, load_length, hlen]
    exact le_max_left _ _
  · have hbit := bitAt_convertImage_row Config.params s hy (hpw ▸ hc)
    rw [hpw, hlp] at hbit
    exact hbit
  · exact bitAt_convertImage_past Config.params s (by rwa [hpw, Nat.mul_comm])

/-- Settles O20: the switch starts at P_SWITCH_INIT and toggles at each pixel of the H rows of W. -/
theorem switchTogglesOncePerPixel : Obligations.SwitchTogglesOncePerPixel := by
  unfold Obligations.SwitchTogglesOncePerPixel
  intro s t hexec herr
  obtain ⟨-, -, rfl⟩ := exec_convert_succeeds hexec herr
  rw [succeed_switch, convertImage_switch, emitRows_switch _ _ _ _ _ (imageRows_width _ _ _), imageRows_length,
    Nat.mul_comm]

/-- Settles O22: a midtone pixel's bit is the switch at it, 1 exactly when the pixel's number is even. -/
theorem midtoneAreaPattern : Obligations.MidtoneAreaPattern := by
  unfold Obligations.MidtoneAreaPattern
  intro s hpos hh hw hmid
  refine ⟨_, exec_convert s hpos, fun x y hx hy => ?_⟩
  obtain ⟨hlo, hhi⟩ := hmid x y hx hy
  have hswitch : Config.params.switchInit = false := rfl
  rw [runConvert_of_fits _ hh hw, succeed_pw, convertImage_pw_toNat _ hw]
  refine (bitAt_convertImage_pixel _ s hx hy).trans ?_
  rw [pixbit_of_midtone hlo hhi, hswitch, Bool.false_xor]
  have hnumber := pixel_number_even_iff s.imgW.toNat x y
  split
  next hodd => exact decide_eq_decide.mpr (by rwa [if_pos hodd] at hnumber)
  next heven => exact decide_eq_decide.mpr (by rwa [if_neg heven] at hnumber)

end Sys2Proof.Proofs
end

section
/-! PROOFS. Waiting for answers (R13, R28, R47, R104): what a wait leaves unchanged, how it ends, and that answers which
come late resume it where it stood. -/

namespace Sys2Proof.Machine

open Sys2Proof

/-! ### What a wait changes -/

@[simp] theorem complete_pos (job : Job) (s : State) : (complete job s).pos = .idle := by cases job <;> rfl

@[simp] theorem complete_answers (job : Job) (s : State) : (complete job s).answers = s.answers := by
  cases job <;> rfl

/-- Answers are only taken from the front of those to come. -/
theorem await_answers_suffix (p : Params) (job : Job) (rest : List Part) (s : State) :
    (await p job rest s).answers <:+ s.answers := by
  induction rest, s using await.induct p job with
  | case1 rest s ha => rw [await_unanswered _ _ _ _ ha]
  | case2 rest s k more ha => rw [await_fail _ _ _ _ _ _ ha, ha]; exact List.suffix_cons _ _
  | case3 s more ha => rw [await_accept_last _ _ _ _ ha, ha, complete_answers]; exact List.suffix_cons _ _
  | case4 s more ha part rest ih =>
    rw [await_accept_next _ _ _ _ _ _ ha, ha]
    exact ih.trans (List.suffix_cons _ _)

/-- A wait that goes on has written neither ERR nor ALIGN (R23, R116). -/
theorem await_waiting_err_align (p : Params) (job : Job) (rest : List Part) {s : State}
    (h : (await p job rest s).pos ≠ .idle) :
    (await p job rest s).err = s.err ∧ (await p job rest s).align = s.align := by
  obtain ⟨u, hu, ⟨left, hend⟩ | ⟨k, more, hend⟩ | ⟨more, hend⟩⟩ :=
    await_ends p job (I := fun u => u.err = s.err ∧ u.align = s.align) (fun _ _ _ hu => hu) rest ⟨rfl, rfl⟩
  · rw [hend]
    exact hu
  · exact absurd (by rw [hend]; rfl) h
  · exact absurd (by rw [hend, complete_pos]) h

/-- A wait writes ALIGN only at the end of a SET_ALIGN, with its value (R22, R116). -/
theorem await_align (p : Params) (job : Job) (rest : List Part) (s : State) :
    (await p job rest s).align = s.align ∨ job = .setAlign (await p job rest s).align := by
  obtain ⟨u, hu, ⟨left, hend⟩ | ⟨k, more, hend⟩ | ⟨more, hend⟩⟩ :=
    await_ends p job (I := fun u => u.align = s.align) (fun _ _ _ hu => hu) rest rfl <;> rw [hend]
  · exact .inl hu
  · exact .inl hu
  · cases job with
    | raster => exact .inl hu
    | setAlign a => exact .inr rfl

theorem await_raster_align (p : Params) (rest : List Part) (s : State) :
    (await p .raster rest s).align = s.align := by
  obtain h | h := await_align p .raster rest s
  · exact h
  · cases h

/-! ### The calls of a wait, answered or not (R33, R51) -/

theorem CallsPending.grows {before chan : List WriteCall} (h : CallsPending before chan) : before <+: chan := by
  obtain ⟨calls, bytes, rfl⟩ := h
  rw [List.append_assoc]
  exact List.prefix_append _ _

/-- The answer to the pending call leaves the calls before it as they are. -/
theorem CallsPending.settle_grows {before chan : List WriteCall} (h : CallsPending before chan) (a : Answer) :
    before <+: settleLast a chan := by
  obtain ⟨calls, bytes, rfl⟩ := h
  rw [settleLast_append, List.append_assoc]
  exact List.prefix_append _ _

/-- A wait keeps the calls before the pending one, with their answers. -/
theorem await_keeps_before (p : Params) (job : Job) (rest : List Part) {s : State} {before : List WriteCall}
    (h : CallsPending before s.chan) : before <+: (await p job rest s).chan := by
  obtain ⟨u, hu, ⟨left, hend⟩ | ⟨k, more, hend⟩ | ⟨more, hend⟩⟩ :=
    await_ends p job (I := fun u => CallsPending before u.chan) (fun part more _ hu => hu.next p job part more) rest
      h <;> rw [hend]
  · exact hu.grows
  · exact hu.settle_grows _
  · rw [complete_chan]
    exact hu.settle_grows _

/-- A command that comes to its write calls keeps the calls already in CHAN. -/
theorem await_offer_chan (p : Params) (job : Job) (part : Part) (rest : List Part) (s : State) :
    s.chan <+: (await p job rest (offer p part s)).chan :=
  await_keeps_before p job rest (callsPending_offer p part s)

/-! ### Enough answers end a wait (R177) -/

theorem await_ends_of_enough (p : Params) (job : Job) (rest : List Part) (s : State)
    (h : rest.length < s.answers.length) : (await p job rest s).pos = .idle := by
  induction rest, s using await.induct p job with
  | case1 rest s ha => simp [ha] at h
  | case2 rest s k more ha => rw [await_fail _ _ _ _ _ _ ha, raise_pos]
  | case3 s more ha => rw [await_accept_last _ _ _ _ ha, complete_pos]
  | case4 s more ha part rest ih =>
    rw [await_accept_next _ _ _ _ _ _ ha]
    exact ih (by simpa [ha] using h)

/-! ### Late answers (R13, R28) -/

/-- The end of a command overwrites the position it had. -/
theorem complete_pos_irrelevant (job : Job) (s : State) (pos : Pos) :
    complete job { s with pos := pos } = complete job s := by cases job <;> rfl

theorem offer_answered_pos (p : Params) (job : Job) (part : Part) (a : Answer) (more : List Answer) (s : State)
    (pos : Pos) :
    offer p part (answered job a more { s with pos := pos }) =
      { offer p part (answered job a more s) with pos := pos } := by
  cases part <;> rfl

/-- The position a wait starts in is overwritten. -/
theorem await_pos_irrelevant (p : Params) (job : Job) (rest : List Part) (s : State) (pos : Pos) :
    await p job rest { s with pos := pos } = await p job rest s := by
  induction rest, s using await.induct p job with
  | case1 rest s ha => rw [await_unanswered _ _ _ _ ha, await_unanswered _ _ _ _ (by exact ha)]
  | case2 rest s k more ha => rw [await_fail _ _ _ _ _ _ ha, await_fail _ _ _ _ _ _ (by exact ha)]; rfl
  | case3 s more ha =>
    rw [await_accept_last _ _ _ _ ha, await_accept_last _ _ _ _ (by exact ha)]
    exact complete_pos_irrelevant job (answered job .accept more s) pos
  | case4 s more ha part rest ih =>
    rw [await_accept_next _ _ _ _ _ _ ha, await_accept_next _ _ _ _ _ _ (by exact ha), offer_answered_pos, ih]

/-- The answers to come after the one taken do not show in the next offered call. -/
theorem offer_answered_answers (p : Params) (job : Job) (part : Part) (a : Answer) (more late : List Answer)
    (s : State) :
    offer p part (answered job a late s) = { offer p part (answered job a more s) with answers := late } := by
  cases part <;> rfl

/-- A wait that goes on waits for the same command, and later answers take it where they would have taken it from the
start. -/
theorem await_resumes (p : Params) (job : Job) (rest : List Part) (s : State)
    (h : (await p job rest s).pos ≠ .idle) :
    ∃ left, (await p job rest s).pos = .waiting job left ∧
      ∀ late, await p job left { await p job rest s with answers := late } =
        await p job rest { s with answers := s.answers ++ late } := by
  induction rest, s using await.induct p job with
  | case1 rest s ha =>
    rw [await_unanswered _ _ _ _ ha]
    refine ⟨rest, rfl, fun late => ?_⟩
    rw [ha, List.nil_append]
    exact await_pos_irrelevant p job rest { s with answers := late } _
  | case2 rest s k more ha => exact absurd (by rw [await_fail _ _ _ _ _ _ ha, raise_pos]) h
  | case3 s more ha => exact absurd (by rw [await_accept_last _ _ _ _ ha, complete_pos]) h
  | case4 s more ha part rest ih =>
    rw [await_accept_next _ _ _ _ _ _ ha] at h ⊢
    obtain ⟨left, hpos, hlate⟩ := ih h
    refine ⟨left, hpos, fun late => ?_⟩
    rw [hlate, await_accept_next p job part rest _ (more ++ late) (by rw [ha, List.cons_append]),
      offer_answered_answers p job part .accept more]
    rfl

/-- The step that brings late answers to a command ends where the command would have with them from the start. -/
theorem step_late {job : Job} {rest : List Part} {s : State} {late : List Answer}
    (h : (await Config.params job rest s).pos ≠ .idle) (hlate : late ≠ []) :
    step { await Config.params job rest s with answers := late } =
      .next (await Config.params job rest { s with answers := s.answers ++ late }) := by
  obtain ⟨left, hpos, hresumes⟩ := await_resumes Config.params job rest s h
  rw [step_of_answers (by exact hpos) (by exact hlate), hresumes late]

end Sys2Proof.Machine
end

section
/-! PROOFS. ENCODE and SET_ALIGN on every path (R31, R40, R96 to R107, R116 to R118): their frames, their waits, the
packer, and how many calls they make. -/

namespace Sys2Proof.Machine

open Sys2Proof

/-! ### The packer (R40) -/

theorem byteOfBits_getLsbD : ∀ a b c d e f g h : Bool, ∀ t < 8,
    (byteOfBits [a, b, c, d, e, f, g, h]).getLsbD (7 - t) = [a, b, c, d, e, f, g, h].getD t false := by
  decide

/-! ### ENCODE -/

/-- An ENCODE with a bitstream offers the center command and waits with the other calls left to make (R99). -/
theorem runEncode_of_bitstream (p : Params) {s : State} (hb : s.bvalid = true) :
    runEncode p s = await p .raster (rasterParts s).tail (offer p .center (beginRaster s)) := by
  obtain ⟨hb', -⟩ | ⟨-, rest, hparts, h⟩ := runEncode_cases p s
  · simp [hb] at hb'
  · rw [h, hparts, List.tail_cons]

/-- An ENCODE with a bitstream leaves everything but ALIGN saved, BVALID, the packer, ERR, CHAN, the answers and its
position as it was, and writes ERR at its end only (R96, R107). -/
theorem runEncode_frame (p : Params) {s : State} (hb : s.bvalid = true) :
    SameButCalls (offer p .center (beginRaster s)) (runEncode p s) ∧ (runEncode p s).align = s.align ∧
      s.chan <+: (runEncode p s).chan ∧ (runEncode p s).answers <:+ s.answers ∧
      ((runEncode p s).pos ≠ .idle → (runEncode p s).err = s.err) := by
  rw [runEncode_of_bitstream p hb]
  exact ⟨await_same _ _ _ _, await_raster_align _ _ _, await_offer_chan _ _ _ _ (beginRaster s),
    await_answers_suffix _ _ _ _, fun hpos => (await_waiting_err_align _ _ _ hpos).1⟩

/-- Answers for k calls only: ENCODE waits, with call k unanswered and the calls after it left to make (R47, R55). -/
theorem runEncode_lacking {s : State} {k : Nat} (hk : k < (Claims.rasterCalls s).length) (hb : s.bvalid = true)
    (ha : s.answers = List.replicate k .accept) :
    ∃ packer, runEncode Config.params s = { beginRaster s with
      answers := [], packer := packer, pos := .waiting .raster ((rasterParts s).tail.drop k),
      chan := s.chan ++ ((Claims.rasterCalls s).take k).map acceptedCall ++ [⟨(Claims.rasterCalls s)[k], none⟩] } := by
  have hcalls : callBytes Config.params (beginRaster s) .center :: (rasterParts s).tail.map
      (callBytes Config.params (offer Config.params .center (beginRaster s))) = Claims.rasterCalls s :=
    rasterParts_map_callBytes s
  have hc : (offer Config.params .center (beginRaster s)).chan =
      s.chan ++ [⟨callBytes Config.params (beginRaster s) .center, none⟩] := rfl
  obtain ⟨packer, h, -⟩ := await_lacking Config.params _ _ _ _ k (hcalls ▸ hk) hc ha
  refine ⟨packer, ?_⟩
  rw [runEncode_of_bitstream _ hb, h]
  simp only [hcalls]
  rfl

theorem runEncode_late {s : State} {late : List Answer} (h : (runEncode Config.params s).pos ≠ .idle)
    (hlate : late ≠ []) :
    step { runEncode Config.params s with answers := late } =
      .next (runEncode Config.params { s with answers := s.answers ++ late }) := by
  obtain ⟨-, hraise⟩ | ⟨hb, -⟩ := runEncode_cases Config.params s
  · exact absurd (by rw [hraise, raise_pos]) h
  · rw [runEncode_of_bitstream _ hb] at h ⊢
    rw [step_late h hlate, runEncode_of_bitstream _ (by exact hb)]
    rfl

/-- ENCODE ends once it has an answer for every call (R177). -/
theorem runEncode_ends_of_enough (p : Params) {s : State} (h : groupCount s + 4 ≤ s.answers.length) :
    (runEncode p s).pos = .idle := by
  obtain ⟨-, hraise⟩ | ⟨hb, -⟩ := runEncode_cases p s
  · rw [hraise, raise_pos]
  · have hcount : (rasterParts s).tail.length = groupCount s + 3 := by simp [rasterParts]
    rw [runEncode_of_bitstream p hb]
    exact await_ends_of_enough p .raster _ _ (hcount ▸ h)

/-! ### SET_ALIGN -/

theorem runSetAlign_unanswered (p : Params) {arg : BitVec 8} {a : Align} {s : State} (h : arg.toNat = a.code.toNat)
    (ha : s.answers = []) :
    runSetAlign p arg s = { s with
      pos := .waiting (.setAlign a) [], chan := s.chan ++ [⟨p.alignCmd a, none⟩] } := by
  rw [runSetAlign_offers p s h, await_unanswered p _ _ _ (by exact ha)]
  rfl

/-- Whatever its argument and answer, SET_ALIGN changes ALIGN, ERR, CHAN, the answers and its position alone; it writes
ALIGN only when it succeeds, and waits only for the answer to a legal argument's call (R116). -/
theorem runSetAlign_effect (p : Params) (arg : BitVec 8) (s : State) :
    ∃ align err calls answers pos, runSetAlign p arg s = { s with
        align := align, err := err, chan := s.chan ++ calls, answers := answers, pos := pos } ∧
      answers <:+ s.answers ∧ (align = s.align ∨ err = .none ∧ pos = .idle ∧ arg.toNat = align.code.toNat) ∧
      (pos ≠ .idle → align = s.align ∧ err = s.err ∧ s.answers = [] ∧ arg.toNat ≤ 2) := by
  obtain ⟨-, h⟩ | ⟨a, harg, -⟩ := runSetAlign_cases p arg s
  · refine ⟨s.align, .invalidStyleValue, [], s.answers, .idle, ?_, List.suffix_refl _, .inl rfl, nofun⟩
    rw [h, List.append_nil]
    rfl
  · match ha : s.answers with
    | [] =>
      rw [runSetAlign_unanswered p harg ha, ← ha]
      have hle : arg.toNat ≤ 2 := by
        rw [harg]
        cases a <;> decide
      exact ⟨_, _, _, _, _, rfl, List.suffix_refl _, .inl rfl, fun _ => ⟨rfl, rfl, rfl, hle⟩⟩
    | .accept :: more =>
      rw [runSetAlign_accepted p harg ha]
      exact ⟨_, _, _, _, _, rfl, List.suffix_cons _ _, .inr ⟨rfl, rfl, harg⟩, nofun⟩
    | .fail k :: more =>
      rw [runSetAlign_failed p harg ha]
      exact ⟨_, _, _, _, _, rfl, List.suffix_cons _ _, .inl rfl, nofun⟩

/-- The step of a SET_ALIGN word outside the vocabulary changes ERR alone (R116). -/
theorem step_setAlign_outside {s : State} {w : Word} {rest : List HostAction} (hpos : s.pos = .idle)
    (hin : s.inbox = .command w :: rest) (hop : w.toNat / 256 = 4) (harg : 3 ≤ w.toNat % 256) :
    step s = .next { s with inbox := rest, err := .invalidStyleValue } := by
  have hd : decode w = .ok (.setAlign (argOf w)) :=
    decode_eq_ok_iff.mpr (encode_setAlign_eq_iff.mpr ⟨hop, argOf_toNat w⟩).symm
  rw [step_command hpos hin hd, exec_setAlign _ _ (by exact hpos),
    runSetAlign_of_outside _ _ (by rw [argOf_toNat]; omega), raise_of_idle _ (by exact hpos)]

theorem runSetAlign_late {arg : BitVec 8} {s : State} {late : List Answer}
    (h : (runSetAlign Config.params arg s).pos ≠ .idle) (hlate : late ≠ []) :
    step { runSetAlign Config.params arg s with answers := late } =
      .next (runSetAlign Config.params arg { s with answers := s.answers ++ late }) := by
  obtain ⟨-, hraise⟩ | ⟨a, harg, hoffers⟩ := runSetAlign_cases Config.params arg s
  · exact absurd (by rw [hraise, raise_pos]) h
  · rw [hoffers] at h ⊢
    rw [step_late h hlate, runSetAlign_offers _ _ harg]
    rfl

end Sys2Proof.Machine

namespace Sys2Proof.Proofs

open Sys2Proof Sys2Proof.Machine

/-- Settles O26: with answers for k calls ENCODE waits at call k, and a waiting block without an answer has no step. -/
theorem encodeWaitsForAnswer : Obligations.EncodeWaitsForAnswer := by
  unfold Obligations.EncodeWaitsForAnswer
  intro s k hk hpos hb ha
  obtain ⟨packer, h⟩ := runEncode_lacking hk hb ha
  rw [exec_encode s hpos, h]
  exact ⟨_, rfl, rfl, nofun, rfl, rfl, rfl, rfl, rfl, step_of_unanswered rfl rfl⟩

/-- Settles O29: an ENCODE without a bitstream changes ERR alone; one with a bitstream has the frame of its calls. -/
theorem encodeFrame : Obligations.EncodeFrame := by
  unfold Obligations.EncodeFrame
  intro s t hexec
  have hpos := exec_next_idle hexec
  cases hb : s.bvalid with
  | false =>
    rw [exec_encode_of_consumed hpos hb] at hexec
    injection hexec with ht
    subst ht
    exact ⟨⟨rfl, rfl, rfl, rfl, rfl, rfl⟩, rfl, rfl, rfl, rfl, rfl, rfl, fun _ => rfl, hb, List.prefix_refl _,
      List.suffix_refl _, fun h => absurd hpos h, fun _ => ⟨rfl, rfl, rfl⟩⟩
  | true =>
    rw [exec_encode s hpos] at hexec
    injection hexec with ht
    subst ht
    obtain ⟨hsame, halign, hchan, hanswers, herr⟩ := runEncode_frame Config.params hb
    exact ⟨⟨hsame.imgW, hsame.imgWGiven, hsame.imgH, hsame.imgHGiven, hsame.image, hsame.inbox⟩, halign, hsame.adv,
      hsame.pw, hsame.ph, hsame.switch, hsame.advlog, fun i => congrArg (Memory.read · i) hsame.bitBuf, hsame.bvalid,
      hchan, hanswers, herr, nofun⟩

/-- Settles O30: the eighth bit completes the byte, and each bit of the byte is checked for each of its values. -/
theorem packerIsMsbFirst : Obligations.PackerIsMsbFirst := by
  unfold Obligations.PackerIsMsbFirst
  intro bits hlen
  refine ⟨byteOfBits bits, pushBits_eight bits [] hlen, ?_⟩
  match bits, hlen with
  | [a, b, c, d, e, f, g, h], _ => exact byteOfBits_getLsbD a b c d e f g h

/-- Settles O39: SET_ALIGN's effect is a state in which only ALIGN, ERR, CHAN, the answers and the position differ. -/
theorem setAlignFrame : Obligations.SetAlignFrame := by
  unfold Obligations.SetAlignFrame
  intro s t arg hexec
  obtain ⟨-, rfl⟩ := onIdle_next hexec
  obtain ⟨align, err, calls, answers, pos, h, hanswers, halign, hwait⟩ := runSetAlign_effect Config.params arg s
  rw [h]
  exact ⟨⟨rfl, rfl, rfl, rfl, rfl, rfl⟩, rfl, rfl, rfl, rfl, rfl, rfl, rfl, rfl, fun _ => rfl,
    List.prefix_append _ _, hanswers, halign.imp_right fun hend => ⟨hend.1, hend.2.1⟩, hwait⟩

/-- Settles O40: the first word is SET_ALIGN CENTER, whose call is accepted; the second is outside the vocabulary. -/
theorem bogusAlignAfterCenterSendsNothing : Obligations.BogusAlignAfterCenterSendsNothing := by
  unfold Obligations.BogusAlignAfterCenterSendsNothing
  intro s w more hpos hop harg hin ha
  have hfirst : step s = .next (succeed { s with
      inbox := [.command w], align := .center, answers := more,
      chan := s.chan ++ [acceptedCall (Config.params.alignCmd .center)] }) := by
    rw [step_command hpos hin (decode_encode (.setAlign 1)), exec_setAlign _ _ (by exact hpos),
      runSetAlign_accepted (arg := 1) (a := .center) _ rfl (by exact ha)]
  exact ⟨_, _, hfirst, step_setAlign_outside rfl rfl hop harg, rfl, rfl, rfl, rfl⟩

end Sys2Proof.Proofs
end

section
/-! PROOFS. PRINT_IMAGE (R106 to R115): CONVERT's outcome, then the ENCODE of the converted image; the calls and bytes it
sends, and that these come from the image and ALIGN alone. -/

namespace Sys2Proof.Machine

open Sys2Proof

/-! ### The outcome, by the operands (R110, R111) -/

theorem runPrintImage_of_tooTall (p : Params) {s : State} (hh : 255 < s.imgH.toNat) :
    runPrintImage p s = raise .imageTooTall s := by
  obtain ⟨-, h⟩ | ⟨hle, -⟩ | ⟨hle, -⟩ := runPrintImage_cases p s
  · exact h
  all_goals omega

theorem runPrintImage_of_tooWide (p : Params) {s : State} (hh : s.imgH.toNat ≤ 255) (hw : 2016 < s.imgW.toNat) :
    runPrintImage p s = raise .widthFieldOverflow s := by
  obtain ⟨hlt, -⟩ | ⟨-, -, h⟩ | ⟨-, hle, -⟩ := runPrintImage_cases p s
  · omega
  · exact h
  · omega

theorem runPrintImage_of_fits (p : Params) {s : State} (hh : s.imgH.toNat ≤ 255) (hw : s.imgW.toNat ≤ 2016) :
    runPrintImage p s = runEncode p (convertImage p s) := by
  obtain ⟨hlt, -⟩ | ⟨-, hlt, -⟩ | ⟨-, -, h⟩ := runPrintImage_cases p s
  · omega
  · omega
  · exact h

/-- Every call accepted: the calls are those of an ENCODE of the converted image. -/
theorem runPrintImage_all_accepted {s : State} {more : List Answer} (hh : s.imgH.toNat ≤ 255)
    (hw : s.imgW.toNat ≤ 2016)
    (ha : s.answers =
      List.replicate (Claims.rasterCalls (convertImage Config.params s)).length .accept ++ more) :
    runPrintImage Config.params s = succeed { beginRaster (convertImage Config.params s) with
      answers := more,
      chan := s.chan ++ (Claims.rasterCalls (convertImage Config.params s)).map acceptedCall } := by
  rw [runPrintImage_of_fits _ hh hw, runEncode_all_accepted rfl (by exact ha), convertImage_chan]

theorem runPrintImage_late {s : State} {late : List Answer} (h : (runPrintImage Config.params s).pos ≠ .idle)
    (hlate : late ≠ []) :
    step { runPrintImage Config.params s with answers := late } =
      .next (runPrintImage Config.params { s with answers := s.answers ++ late }) := by
  obtain ⟨-, hraise⟩ | ⟨-, -, hraise⟩ | ⟨hh, hw, hfits⟩ := runPrintImage_cases Config.params s
  · exact absurd (by rw [hraise, raise_pos]) h
  · exact absurd (by rw [hraise, raise_pos]) h
  · rw [hfits] at h ⊢
    rw [runEncode_late h hlate, runPrintImage_of_fits _ (by exact hh) (by exact hw)]
    rfl

/-! ### The calls of an aligned bitstream (R102, R106) -/

/-- Where PW is a multiple of 32 the body is whole groups of 4 bytes. -/
theorem bodyBytes_of_aligned {s : State} (h : s.pw.toNat % 32 = 0) :
    Claims.bodyBytes s = 4 * (s.pw.toNat * s.ph.toNat / 32) := by
  obtain ⟨k, hk⟩ := Nat.dvd_of_mod_eq_zero h
  have hbytes : 32 * k / 8 = 4 * k := by omega
  rw [Claims.bodyBytes, hk, hbytes, Nat.mul_assoc, Nat.mul_assoc, Nat.mul_div_cancel_left _ (by decide)]

/-- The body calls of an aligned bitstream. -/
def bodyCalls (s : State) : List (List Byte) :=
  (List.range (s.pw.toNat * s.ph.toNat / 32)).map (Claims.bodyCall s)

theorem bodyCalls_length (s : State) : (bodyCalls s).length = s.pw.toNat * s.ph.toNat / 32 := by
  rw [bodyCalls, List.length_map, List.length_range]

theorem rasterCalls_of_aligned {s : State} (h : s.pw.toNat % 32 = 0) :
    Claims.rasterCalls s = [Config.params.alignCmd .center, Config.params.marker, Claims.header s] ++ bodyCalls s ++
      [Config.params.alignCmd s.align] := by
  have hgroups : (Claims.bodyBytes s + 3) / 4 = s.pw.toNat * s.ph.toNat / 32 := by
    rw [bodyBytes_of_aligned h]
    omega
  rw [Claims.rasterCalls, hgroups, bodyCalls]

/-- R102's count of write calls. -/
theorem rasterCalls_length_of_aligned {s : State} (h : s.pw.toNat % 32 = 0) :
    (Claims.rasterCalls s).length = 4 + s.pw.toNat * s.ph.toNat / 32 := by
  simp only [rasterCalls_of_aligned h, List.length_append, bodyCalls_length, List.length_cons, List.length_nil]
  omega

theorem bodyCalls_four_bytes {s : State} (h : s.pw.toNat % 32 = 0) : ∀ c ∈ bodyCalls s, c.length = 4 := by
  intro c hc
  obtain ⟨g, hg, rfl⟩ := List.mem_map.mp hc
  rw [List.mem_range] at hg
  rw [Claims.bodyCall, List.length_map, List.length_range, bodyBytes_of_aligned h]
  omega

/-- The body calls, end to end, are the body bytes in order (R69). -/
theorem bodyCalls_flatten {s : State} (h : s.pw.toNat % 32 = 0) :
    (bodyCalls s).flatten = (List.range (Claims.bodyBytes s)).map (Claims.bodyByte s) := by
  have hall := range_map_groups (Claims.bodyByte s) (Claims.bodyBytes s) (s.pw.toNat * s.ph.toNat / 32)
  rwa [← bodyBytes_of_aligned h, Nat.min_self] at hall

theorem convertImage_aligned (p : Params) {s : State} (hw : s.imgW.toNat ≤ 2016) :
    (convertImage p s).pw.toNat % 32 = 0 := by
  rw [convertImage_pw_toNat p hw]
  exact paddedWidth_mod _

/-! ### What the calls are made of (R115) -/

/-- A body byte is the bits it packs. -/
theorem bodyByte_congr {s t : State} {j : Nat} (h : ∀ i, i < 8 * j + 8 → bitAt s i = bitAt t i) :
    Claims.bodyByte s j = Claims.bodyByte t j := by
  rw [← byteOfBits_bitAt, ← byteOfBits_bitAt]
  refine congrArg byteOfBits (List.map_congr_left fun k hk => h _ ?_)
  rw [List.mem_range] at hk
  omega

/-- The calls of a raster print come from PW, PH, ALIGN and the bits of the bitstream alone. -/
theorem rasterCalls_congr {s t : State} (hpw : s.pw = t.pw) (hph : s.ph = t.ph) (halign : s.align = t.align)
    (hbits : ∀ i, i < s.pw.toNat * s.ph.toNat → bitAt s i = bitAt t i) :
    Claims.rasterCalls s = Claims.rasterCalls t := by
  have hbytes : Claims.bodyBytes s = Claims.bodyBytes t := by simp only [Claims.bodyBytes, hpw, hph]
  have hreach : 8 * Claims.bodyBytes s ≤ s.pw.toNat * s.ph.toNat := by
    rw [Claims.bodyBytes, ← Nat.mul_assoc]
    exact Nat.mul_le_mul_right _ (Nat.mul_div_le _ 8)
  have hcall : Claims.bodyCall s = Claims.bodyCall t := by
    funext g
    rw [Claims.bodyCall, Claims.bodyCall, ← hbytes]
    refine List.map_congr_left fun i hi => bodyByte_congr fun j hj => hbits j ?_
    rw [List.mem_range] at hi
    omega
  simp only [Claims.rasterCalls, Claims.header, hbytes, hcall, hpw, hph, halign]

theorem rasterParts_congr {s t : State} (hpw : s.pw = t.pw) (hph : s.ph = t.ph) : rasterParts s = rasterParts t := by
  simp only [rasterParts, groupCount, bodyLen, widthBytes, hpw, hph]

/-- Two states with the same calls to make and the same answers make them alike: all accepted, one failed, or waiting
at the same one. -/
theorem runEncode_same_calls {s t : State} (hs : s.bvalid = true) (ht : t.bvalid = true)
    (hcalls : Claims.rasterCalls s = Claims.rasterCalls t) (hparts : rasterParts s = rasterParts t)
    (ha : s.answers = t.answers) :
    ∃ calls, (runEncode Config.params s).chan = s.chan ++ calls ∧ (runEncode Config.params t).chan = t.chan ++ calls ∧
      (runEncode Config.params s).pos = (runEncode Config.params t).pos ∧
      ((runEncode Config.params s).pos = .idle →
        (runEncode Config.params s).err = (runEncode Config.params t).err) := by
  obtain ⟨more, h⟩ | ⟨k, j, more, hk, h⟩ | ⟨k, hk, h⟩ := answers_cases (Claims.rasterCalls s).length s.answers
  · rw [runEncode_all_accepted hs h, runEncode_all_accepted ht (hcalls ▸ ha ▸ h), hcalls]
    exact ⟨_, rfl, rfl, rfl, fun _ => rfl⟩
  · rw [runEncode_one_failed hk hs h, runEncode_one_failed (hcalls ▸ hk) ht (ha ▸ h)]
    simp only [hcalls, List.append_assoc]
    exact ⟨_, rfl, rfl, rfl, fun _ => rfl⟩
  · obtain ⟨_, hs'⟩ := runEncode_lacking hk hs h
    obtain ⟨_, ht'⟩ := runEncode_lacking (hcalls ▸ hk) ht (ha ▸ h)
    rw [hs', ht']
    simp only [hcalls, hparts, List.append_assoc]
    exact ⟨_, rfl, rfl, trivial, nofun⟩

/-- Two states that present the same image, with the same ALIGN, make the same calls after their CONVERT. -/
theorem convertImage_same_calls {s t : State} (h : Claims.SameImage s t) (halign : s.align = t.align)
    (hh : s.imgH.toNat ≤ 255) (hw : s.imgW.toNat ≤ 2016) :
    Claims.rasterCalls (convertImage Config.params s) = Claims.rasterCalls (convertImage Config.params t) ∧
      rasterParts (convertImage Config.params s) = rasterParts (convertImage Config.params t) := by
  have ⟨himgW, himgH, _⟩ := h
  have hpw : (convertImage Config.params s).pw = (convertImage Config.params t).pw := by
    rw [convertImage_pw, convertImage_pw, himgW]
  have hph : (convertImage Config.params s).ph = (convertImage Config.params t).ph := by
    rw [convertImage_ph, convertImage_ph, himgH]
  refine ⟨rasterCalls_congr hpw hph halign fun i hi => bitAt_convertImage_congr _ h ?_, rasterParts_congr hpw hph⟩
  rwa [convertImage_pw_toNat _ hw, convertImage_ph_toNat _ hh, Nat.mul_comm] at hi

end Sys2Proof.Machine

namespace Sys2Proof.Proofs

open Sys2Proof Sys2Proof.Machine

/-- Settles O32: the checks are CONVERT's, and the error they raise at IDLE changes ERR alone. -/
theorem printImageOfBadSize : Obligations.PrintImageOfBadSize := by
  unfold Obligations.PrintImageOfBadSize
  intro s hpos
  rw [exec_printImage s hpos]
  refine ⟨fun hh => ?_, fun hh hw => ?_⟩
  · rw [runPrintImage_of_tooTall _ hh, raise_of_idle _ hpos]
  · rw [runPrintImage_of_tooWide _ hh hw, raise_of_idle _ hpos]

/-- Settles O33: with ERR as it was before, CONVERT's result is the converted image PRINT_IMAGE encodes. -/
theorem printImageIsConvertThenEncode : Obligations.PrintImageIsConvertThenEncode := by
  unfold Obligations.PrintImageIsConvertThenEncode
  intro s t hexec
  obtain ⟨hpos, rfl⟩ := onIdle_next hexec
  rw [exec_printImage s hpos]
  obtain ⟨hh, h⟩ | ⟨hh, hw, h⟩ | ⟨hh, hw, h⟩ := runConvert_cases Config.params s <;> rw [h]
  · rw [runPrintImage_of_tooTall _ hh]
    exact ⟨nofun, fun _ => rfl⟩
  · rw [runPrintImage_of_tooWide _ hh hw]
    exact ⟨nofun, fun _ => rfl⟩
  · have hbefore : { succeed (convertImage Config.params s) with err := s.err } = convertImage Config.params s := by
      rw [succeed, ← hpos]
      rfl
    rw [hbefore, exec_encode _ (by exact hpos), runPrintImage_of_fits _ hh hw]
    exact ⟨fun _ => rfl, fun herr => absurd rfl herr⟩

/-- Settles O34: the converted width is a multiple of 32, so the body is PW * PH / 32 whole groups. -/
theorem printImageCallsAndBytes : Obligations.PrintImageCallsAndBytes := by
  unfold Obligations.PrintImageCallsAndBytes
  intro s pw more hpos hh hw hpw ha
  have hpw' : (convertImage Config.params s).pw.toNat = pw := (convertImage_pw_border _ hw).trans hpw.symm
  have hph : (convertImage Config.params s).ph.toNat = s.imgH.toNat := convertImage_ph_toNat _ hh
  have haligned := convertImage_aligned Config.params hw
  have hlen := rasterCalls_length_of_aligned haligned
  have hcount := bodyCalls_length (convertImage Config.params s)
  have hflat := bodyCalls_flatten haligned
  rw [hpw', hph] at hlen hcount
  rw [Claims.bodyBytes, hpw', hph] at hflat
  refine ⟨_, bodyCalls (convertImage Config.params s), exec_printImage s hpos, ?_⟩
  rw [runPrintImage_all_accepted hh hw (hlen ▸ ha), rasterCalls_of_aligned haligned]
  exact ⟨rfl, rfl, rfl, rfl, rfl, hpw', hph, rfl, hcount, bodyCalls_four_bytes haligned, hflat⟩

/-- Settles O35: an image without pixels has PW * PH = 0, so there is no body call. -/
theorem emptyImagePrintsHeaderOnly : Obligations.EmptyImagePrintsHeaderOnly := by
  unfold Obligations.EmptyImagePrintsHeaderOnly
  intro s pw more hpos hh hw hempty hpw ha
  have hpw' : (convertImage Config.params s).pw.toNat = pw := (convertImage_pw_border _ hw).trans hpw.symm
  have hph : (convertImage Config.params s).ph.toNat = s.imgH.toNat := convertImage_ph_toNat _ hh
  have hnone : pw * s.imgH.toNat / 32 = 0 := by
    obtain h | h := hempty
    · simp [hpw, h]
    · simp [h]
  have haligned := convertImage_aligned Config.params hw
  have hlen := rasterCalls_length_of_aligned haligned
  have hbody : bodyCalls (convertImage Config.params s) = [] := by
    rw [bodyCalls, hpw', hph, hnone]
    rfl
  rw [hpw', hph, hnone, Nat.add_zero] at hlen
  refine ⟨_, exec_printImage s hpos, ?_⟩
  rw [runPrintImage_all_accepted hh hw (hlen ▸ ha), rasterCalls_of_aligned haligned, hbody, Claims.header, hpw']
  exact ⟨rfl, rfl, rfl⟩

/-- Settles O36: the same image passes or fails the same checks, and converted it makes the same calls. -/
theorem printDependsOnImageAndAlign : Obligations.PrintDependsOnImageAndAlign := by
  unfold Obligations.PrintDependsOnImageAndAlign
  intro s₁ s₂ hpos₁ hpos₂ hsame halign ha
  have ⟨himgW, himgH, _⟩ := hsame
  rw [exec_printImage s₁ hpos₁, exec_printImage s₂ hpos₂]
  obtain ⟨hh, h⟩ | ⟨hh, hw, h⟩ | ⟨hh, hw, h⟩ := runPrintImage_cases Config.params s₁ <;> rw [h]
  · rw [runPrintImage_of_tooTall _ (himgH ▸ hh)]
    exact ⟨_, _, [], rfl, rfl, by simp, by simp, rfl, fun _ => rfl⟩
  · rw [runPrintImage_of_tooWide _ (himgH ▸ hh) (himgW ▸ hw)]
    exact ⟨_, _, [], rfl, rfl, by simp, by simp, rfl, fun _ => rfl⟩
  · rw [runPrintImage_of_fits _ (himgH ▸ hh) (himgW ▸ hw)]
    obtain ⟨hcalls, hparts⟩ := convertImage_same_calls hsame halign hh hw
    obtain ⟨calls, hrun⟩ := runEncode_same_calls (s := convertImage Config.params s₁)
      (t := convertImage Config.params s₂) rfl rfl hcalls hparts ha
    exact ⟨_, _, calls, rfl, rfl, hrun⟩

/-- Settles O37: a failing check changes ERR alone; otherwise the frame is that of an ENCODE of the converted image. -/
theorem printImageFrame : Obligations.PrintImageFrame := by
  unfold Obligations.PrintImageFrame
  intro s t hexec
  obtain ⟨hpos, rfl⟩ := onIdle_next hexec
  obtain ⟨hh, h⟩ | ⟨hh, hw, h⟩ | ⟨hh, hw, h⟩ := runPrintImage_cases Config.params s <;> rw [h]
  · exact ⟨⟨rfl, rfl, rfl, rfl, rfl, rfl⟩, rfl, List.prefix_refl _, List.suffix_refl _, fun _ _ => rfl,
      fun hp => absurd rfl hp, fun _ => raise_of_idle _ hpos, fun hle => by omega⟩
  · exact ⟨⟨rfl, rfl, rfl, rfl, rfl, rfl⟩, rfl, List.prefix_refl _, List.suffix_refl _, fun _ _ => rfl,
      fun hp => absurd rfl hp, fun _ => raise_of_idle _ hpos, fun _ hle => by omega⟩
  · obtain ⟨hsame, halign, hchan, hanswers, herr⟩ :=
      runEncode_frame Config.params (s := convertImage Config.params s) rfl
    refine ⟨⟨hsame.imgW, hsame.imgWGiven, hsame.imgH, hsame.imgHGiven, hsame.image, hsame.inbox⟩, halign, hchan,
      hanswers, fun i hi => ?_, herr, fun hbad => by omega, fun _ _ => ⟨hsame.savedAlign, hsame.bvalid,
        succeed (convertImage Config.params s), ?_, hsame.adv, hsame.advlog, hsame.switch, hsame.pw, hsame.ph,
        hsame.bitBuf⟩⟩
    · rw [hsame.pw, hsame.ph, offer_pw, offer_ph, beginRaster_pw, beginRaster_ph, convertImage_pw_toNat _ hw,
        convertImage_ph_toNat _ hh, Nat.mul_comm] at hi
      exact (congrArg (Memory.read · i) hsame.bitBuf).trans (bitAt_convertImage_past _ s hi)
    · rw [exec_convert s hpos, runConvert_of_fits _ hh hw]

/-- Settles O41: a CONVERT never waits, and each other command that waits is resumed in its wait for answers. -/
theorem lateAnswersGiveTheSameRun : Obligations.LateAnswersGiveTheSameRun := by
  unfold Obligations.LateAnswersGiveTheSameRun
  intro i s t a₁ a₂ hexec hwait hlate
  have hpos : { s with answers := a₁ }.pos = .idle := exec_next_idle hexec
  cases i with
  | convert =>
    obtain ⟨hidle, rfl⟩ := onIdle_next hexec
    obtain ⟨-, -, -, -, -, hend, -⟩ := runConvert_frame Config.params hidle
    exact absurd (hend.trans hidle) hwait
  | encode =>
    obtain ⟨-, rfl⟩ := onIdle_next hexec
    rw [runEncode_late hwait hlate, exec_encode _ (by exact hpos)]
  | printImage =>
    obtain ⟨-, rfl⟩ := onIdle_next hexec
    rw [runPrintImage_late hwait hlate, exec_printImage _ (by exact hpos)]
  | setAlign arg =>
    obtain ⟨-, rfl⟩ := onIdle_next hexec
    rw [runSetAlign_late hwait hlate, exec_setAlign _ _ (by exact hpos)]

end Sys2Proof.Proofs
end

section
/-! PROOFS. What only some steps write (R22, R24, R27, R29, R32 to R34, R43, R51), and the bound on the answers a command
needs (R177). -/

namespace Sys2Proof.Machine

open Sys2Proof

/-! ### What a command keeps -/

/-- The bitstream and the registers CONVERT writes with it are as they were. -/
def BitstreamKept (s t : State) : Prop :=
  t.adv = s.adv ∧ t.advlog = s.advlog ∧ t.pw = s.pw ∧ t.ph = s.ph ∧ t.switch = s.switch ∧ t.bitBuf = s.bitBuf

theorem bitstreamKept_refl (s : State) : BitstreamKept s s := ⟨rfl, rfl, rfl, rfl, rfl, rfl⟩

theorem SameButCalls.bitstreamKept {s t : State} (h : SameButCalls s t) : BitstreamKept s t :=
  ⟨h.adv, h.advlog, h.pw, h.ph, h.switch, h.bitBuf⟩

theorem runEncode_keeps (p : Params) (s : State) :
    (runEncode p s).align = s.align ∧ s.chan <+: (runEncode p s).chan ∧ BitstreamKept s (runEncode p s) := by
  obtain ⟨-, h⟩ | ⟨hb, -⟩ := runEncode_cases p s
  · rw [h]
    exact ⟨rfl, List.prefix_refl _, bitstreamKept_refl s⟩
  · obtain ⟨hsame, halign, hchan, -⟩ := runEncode_frame p hb
    exact ⟨halign, hchan, hsame.bitstreamKept⟩

theorem runPrintImage_keeps (p : Params) (s : State) :
    (runPrintImage p s).align = s.align ∧ s.chan <+: (runPrintImage p s).chan := by
  obtain ⟨-, h⟩ | ⟨-, -, h⟩ | ⟨-, -, h⟩ := runPrintImage_cases p s <;> rw [h]
  · exact ⟨rfl, List.prefix_refl _⟩
  · exact ⟨rfl, List.prefix_refl _⟩
  · obtain ⟨halign, hchan, -⟩ := runEncode_keeps p (convertImage p s)
    exact ⟨halign, hchan⟩

/-- Every command keeps the calls already in CHAN, with their answers. -/
theorem exec_chan_grows {i : Instr} {s t : State} (h : exec i s = .next t) : s.chan <+: t.chan := by
  cases i with
  | convert =>
    obtain ⟨hpos, rfl⟩ := onIdle_next h
    obtain ⟨-, -, -, -, hchan, -⟩ := runConvert_frame Config.params hpos
    rw [hchan]
  | encode =>
    obtain ⟨-, rfl⟩ := onIdle_next h
    exact (runEncode_keeps _ s).2.1
  | printImage =>
    obtain ⟨-, rfl⟩ := onIdle_next h
    exact (runPrintImage_keeps _ s).2
  | setAlign arg =>
    obtain ⟨-, rfl⟩ := onIdle_next h
    obtain ⟨_, _, calls, _, _, hrun, -⟩ := runSetAlign_effect Config.params arg s
    rw [hrun]
    exact List.prefix_append _ _

/-- A command writes ALIGN only as a SET_ALIGN, with its argument's alignment (R22). -/
theorem exec_align {i : Instr} {s t : State} (h : exec i s = .next t) :
    t.align = s.align ∨ ∃ arg, i = .setAlign arg ∧ arg.toNat = t.align.code.toNat := by
  cases i with
  | convert =>
    obtain ⟨hpos, rfl⟩ := onIdle_next h
    obtain ⟨-, halign, -⟩ := runConvert_frame Config.params hpos
    exact .inl halign
  | encode =>
    obtain ⟨-, rfl⟩ := onIdle_next h
    exact .inl (runEncode_keeps _ s).1
  | printImage =>
    obtain ⟨-, rfl⟩ := onIdle_next h
    exact .inl (runPrintImage_keeps _ s).1
  | setAlign arg =>
    obtain ⟨-, rfl⟩ := onIdle_next h
    obtain ⟨align, _, _, _, _, hrun, -, halign, -⟩ := runSetAlign_effect Config.params arg s
    rw [hrun]
    exact halign.imp_right fun hend => ⟨arg, rfl, hend.2.2⟩

/-- A command writes the bitstream only as a CONVERT or a PRINT_IMAGE (R32). -/
theorem exec_bitstream {i : Instr} {s t : State} (h : exec i s = .next t) :
    i = .convert ∨ i = .printImage ∨ BitstreamKept s t := by
  cases i with
  | convert => exact .inl rfl
  | printImage => exact .inr (.inl rfl)
  | encode =>
    obtain ⟨-, rfl⟩ := onIdle_next h
    exact .inr (.inr (runEncode_keeps _ s).2.2)
  | setAlign arg =>
    obtain ⟨-, rfl⟩ := onIdle_next h
    obtain ⟨_, _, _, _, _, hrun, -⟩ := runSetAlign_effect Config.params arg s
    rw [hrun]
    exact .inr (.inr (bitstreamKept_refl s))

/-! ### What a step keeps -/

/-- A step is a reset, the resumed wait of a command, a command, or one that touches no output: ALIGN, the bitstream and
CHAN are as they were. -/
theorem step_effect {s t : State} (h : step s = .next t) :
    (s.pos = .idle ∧ ∃ rest, s.inbox = .reset :: rest) ∨
    (∃ job rest, s.pos = .waiting job rest ∧ t = await Config.params job rest s) ∨
    (s.pos = .idle ∧ ∃ w rest i, s.inbox = .command w :: rest ∧ decode w = .ok i ∧
      exec i { s with inbox := rest } = .next t) ∨
    (t.align = s.align ∧ t.chan = s.chan ∧ BitstreamKept s t) := by
  obtain ⟨job, rest, hpos, -, ht⟩ | ⟨-, -, rfl⟩ | ⟨hpos, a, rest, hin, hhost⟩ := step_cases h
  · exact .inr (.inl ⟨job, rest, hpos, ht⟩)
  · exact .inr (.inr (.inr ⟨rfl, rfl, bitstreamKept_refl _⟩))
  · obtain ⟨w, i, rfl, hd, hexec⟩ | ⟨w, e, rfl, -, rfl⟩ | ⟨v, rfl, rfl⟩ | ⟨v, rfl, rfl⟩ | ⟨g, rfl, rfl⟩ | ⟨rfl, rfl⟩ |
      ⟨rfl, -⟩ := hostStep_cases (by exact hpos) hhost
    · exact .inr (.inr (.inl ⟨hpos, w, rest, i, hin, hd, hexec⟩))
    on_goal 6 => exact .inl ⟨hpos, rest, hin⟩
    all_goals exact .inr (.inr (.inr ⟨rfl, rfl, bitstreamKept_refl s⟩))

/-- A step but a reset resumes a wait or keeps the calls already in CHAN, with their answers. -/
theorem step_chan {s t : State} (h : step s = .next t)
    (hreset : ¬ (s.pos = .idle ∧ ∃ rest, s.inbox = .reset :: rest)) :
    (∃ job rest, s.pos = .waiting job rest ∧ t = await Config.params job rest s) ∨ s.chan <+: t.chan := by
  obtain hr | hwait | ⟨-, w, rest, i, -, -, hexec⟩ | ⟨-, hchan, -⟩ := step_effect h
  · exact absurd hr hreset
  · exact .inl hwait
  · have hchan := exec_chan_grows hexec
    exact .inr hchan
  · exact .inr (by rw [hchan])

/-! ### The bytes delivered (R43, R51) -/

theorem deviceBytes_grows {before : List WriteCall} {t : State} (h : before <+: t.chan) :
    before.flatMap deliveredBytes <+: deviceBytes t := by
  obtain ⟨later, hlater⟩ := h
  rw [deviceBytes, ← hlater, List.flatMap_append]
  exact List.prefix_append _ _

/-- The pending call has delivered nothing yet, and its answer leaves the calls before it. -/
theorem await_deviceBytes (p : Params) {job : Job} {rest : List Part} {s : State} (h : Inv s)
    (hpos : s.pos = .waiting job rest) : deviceBytes s <+: deviceBytes (await p job rest s) := by
  obtain ⟨earlier, bytes, hchan, -⟩ := h.last_unanswered hpos
  have hpending : CallsPending earlier s.chan := ⟨[], bytes, by simpa using hchan⟩
  have hbytes : deviceBytes s = earlier.flatMap deliveredBytes := by simp [deviceBytes, hchan, deliveredBytes]
  rw [hbytes]
  exact deviceBytes_grows (await_keeps_before p job rest hpending)

/-! ### The most calls a command makes (R177) -/

/-- A bitstream of at most 2016 by 255 bits has at most 252 * 255 / 4 body groups. -/
theorem groupCount_le {s : State} (hpw : s.pw.toNat ≤ 2016) : groupCount s ≤ 16065 := by
  have hbytes : bodyLen s ≤ 252 * 255 :=
    Nat.mul_le_mul (show s.pw.toNat / 8 ≤ 252 by omega) (Nat.le_of_lt_succ s.ph.isLt)
  simp only [groupCount, Config.group]
  omega

/-- A command with 16069 answers to come ends in the step that runs it. -/
theorem exec_ends_of_enough {i : Instr} {s t : State} (hinv : Inv s) (hanswers : 16069 ≤ s.answers.length)
    (h : exec i s = .next t) : t.pos = .idle := by
  cases i with
  | convert =>
    obtain ⟨hpos, rfl⟩ := onIdle_next h
    obtain ⟨-, -, -, -, -, hend, -⟩ := runConvert_frame Config.params hpos
    exact hend.trans hpos
  | encode =>
    obtain ⟨-, rfl⟩ := onIdle_next h
    have hgroups := groupCount_le hinv.pwBound
    exact runEncode_ends_of_enough _ (by omega)
  | printImage =>
    obtain ⟨hpos, rfl⟩ := onIdle_next h
    obtain ⟨-, hrun⟩ | ⟨-, -, hrun⟩ | ⟨hh, hw, hrun⟩ := runPrintImage_cases Config.params s <;> rw [hrun]
    · rfl
    · rfl
    · have hgroups := groupCount_le (hinv.convertImage hpos hh hw).pwBound
      exact runEncode_ends_of_enough _ (by rw [convertImage_answers]; omega)
  | setAlign arg =>
    obtain ⟨-, rfl⟩ := onIdle_next h
    obtain ⟨_, _, _, _, pos, hrun, -, -, hwait⟩ := runSetAlign_effect Config.params arg s
    rw [hrun]
    by_contra hpos
    obtain ⟨-, -, hnone, -⟩ := hwait hpos
    simp [hnone] at hanswers

end Sys2Proof.Machine

namespace Sys2Proof.Proofs

open Sys2Proof Sys2Proof.Machine

/-- Settles O43: a wait, a command other than the two, and any other step but a reset keep all six. -/
theorem onlyConvertWritesBitstream : Obligations.OnlyConvertWritesBitstream := by
  unfold Obligations.OnlyConvertWritesBitstream
  intro s t hstep hchange
  have hchanged : ¬ BitstreamKept s t := by
    rintro ⟨hadv, hadvlog, hpw, hph, hswitch, hbuf⟩
    simp [hadv, hadvlog, hpw, hph, hswitch, hbuf] at hchange
  obtain ⟨hpos, rest, hin⟩ | ⟨job, rest, -, rfl⟩ | ⟨hpos, w, rest, i, hin, hd, hexec⟩ | ⟨-, -, hkept⟩ :=
    step_effect hstep
  · exact ⟨hpos, rest, .inl hin⟩
  · exact absurd (await_same Config.params job rest s).bitstreamKept hchanged
  · obtain rfl | rfl | hkept := exec_bitstream hexec
    · exact ⟨hpos, rest, .inr ⟨w, hin, .inl hd⟩⟩
    · exact ⟨hpos, rest, .inr ⟨w, hin, .inr hd⟩⟩
    · exact absurd hkept hchanged
  · exact absurd hkept hchanged

/-- Settles O44: a wait writes ALIGN at the end of a SET_ALIGN, and a command as a SET_ALIGN of its argument. -/
theorem onlySetAlignWritesAlign : Obligations.OnlySetAlignWritesAlign := by
  unfold Obligations.OnlySetAlignWritesAlign
  intro s t hstep hchange
  obtain hreset | ⟨job, rest, hpos, rfl⟩ | ⟨hpos, w, rest, i, hin, hd, hexec⟩ | ⟨halign, -⟩ := step_effect hstep
  · exact .inl hreset
  · obtain halign | hjob := await_align Config.params job rest s
    · exact absurd halign hchange
    · exact .inr (.inl ⟨rest, hpos.trans (congrArg (Pos.waiting · rest) hjob)⟩)
  · obtain halign | ⟨arg, rfl, harg⟩ := exec_align hexec
    · exact absurd halign hchange
    · exact .inr (.inr ⟨hpos, w, rest, arg, hin, hd, harg.trans (by cases t.align <;> rfl)⟩)
  · exact absurd halign hchange

/-- Settles O45: an answer changes no call's bytes, and every other step but a reset keeps CHAN's calls. -/
theorem channelHistoryOnlyGrows : Obligations.ChannelHistoryOnlyGrows := by
  unfold Obligations.ChannelHistoryOnlyGrows
  intro s t hstep hreset
  obtain ⟨job, rest, -, rfl⟩ | hchan := step_chan hstep hreset
  · exact await_chan_grows Config.params job rest s
  · exact hchan.map _

/-- Settles O46: a late answer adds what its call delivers, and every other step but a reset keeps CHAN's calls. -/
theorem deliveredBytesStay : Obligations.DeliveredBytesStay := by
  unfold Obligations.DeliveredBytesStay
  intro s t hinv hstep hreset
  obtain ⟨job, rest, hpos, rfl⟩ | hchan := step_chan hstep hreset
  · exact await_deviceBytes Config.params hinv hpos
  · exact deviceBytes_grows hchan

/-- Settles O49: at most 16065 body calls and the 4 others are made, and a wait with an answer for each of them ends. -/
theorem commandsEndWhenAnswered : Obligations.CommandsEndWhenAnswered := by
  unfold Obligations.CommandsEndWhenAnswered
  intro i s hinv hpos hanswers
  obtain ⟨t, hexec⟩ := exec_idle_next i hpos
  exact ⟨t, hexec, exec_ends_of_enough hinv hanswers hexec⟩

end Sys2Proof.Proofs
end
